-- ==== Sys2Proof/Word.lean ====
section
/-! DEFINITION. The word types of the block: command words and register data (R9, R100), symbols (R7), register-port
addresses (R42), and bit strings (R10). -/

namespace Sys2Proof

/-- A 32-bit word: a command word (R100) or a register-port datum (R42). Bit `i` has weight `2^i` (R9). -/
abbrev Word := BitVec 32

/-- An 8-bit symbol (R7). Symbols are ordered by their unsigned value (R8). -/
abbrev Symbol := BitVec 8

/-- A register-port byte address, 16 bits wide (R6, R42). -/
abbrev CsrAddr := BitVec 16

/-- One byte of a platform bus that carries the block's words (R75). -/
abbrev Byte := BitVec 8

/-- A bit string (R10): index 0 is the first bit emitted. -/
abbrev BitString := List Bool

end Sys2Proof
end

