-- ==== Sys2Proof/Config.lean ====
section
/-! DEFINITION. The implementation parameters of R6: the constants the spec fixes, the two parameters it leaves OPEN, and
the free values of an output port that carries no item (R73). -/

namespace Sys2Proof

/-- Symbol width in bits (R6). -/
abbrev Config.symW : Nat := 8
/-- Number of table entries, one per symbol value (R6). -/
abbrev Config.nsym : Nat := 256
/-- Longest code a table entry can hold (R6). -/
abbrev Config.maxLen : Nat := 255
/-- Width of an entry's length field (R6). -/
abbrev Config.lenW : Nat := 8
/-- Code cells per entry (R6). -/
abbrev Config.storeW : Nat := 256
/-- Code bits written by one TBL_BITS (R6). -/
abbrev Config.chunkW : Nat := 16
/-- Chunks per entry (R6). -/
abbrev Config.nchunk : Nat := 16
/-- Width of a command word (R6). -/
abbrev Config.cmdW : Nat := 32
/-- Width of a register-port address (R6). -/
abbrev Config.csrAw : Nat := 16
/-- Width of a register-port datum (R6). -/
abbrev Config.csrDw : Nat := 32
/-- Width of the three event counters (R6). -/
abbrev Config.cntW : Nat := 32
/-- PARAMS.VERSION (R1, R6). -/
abbrev Config.version : Nat := 1

/-- The byte order of a platform bus (R75). -/
inductive Endian where
  | little
  | big
deriving DecidableEq, Repr, Inhabited

/-- CSR_BASE, OPEN in R6: the platform address of register-port address 0. The functions that use a base take it as an
argument; this constant is the platform's own, of which nothing is known. -/
opaque Config.csrBase : Nat

/-- PLATFORM_ENDIAN, OPEN in R6. The functions that use a byte order take it as an argument; this constant is the
platform's own, of which nothing is known. -/
opaque Config.platformEndian : Endian

/-- FREE VALUE (log entry 3). What `out_end` carries in a cycle whose `out_valid` is 0: R73 says undefined. Applied to the
state's draw counter, so that two cycles may differ. -/
opaque Config.freeOutEnd : Nat → Bool

/-- FREE VALUE (log entry 3). What `out_data` carries in a cycle whose `out_valid` is 0: R73 says undefined. -/
opaque Config.freeOutData : Nat → Bool

end Sys2Proof
end

