-- ==== Sys2Proof/Syntax.lean ====
section
/-! DEFINITION. The commands of the block, one constructor per row of the opcode map (R107), and the assembler's source
commands (R111, R112). -/

namespace Sys2Proof

/-- A legal command (R107). Every operand is an unsigned field used as it is (R106), so each has exactly the width of its
field and no operand value is out of range. -/
inductive Instr where
  /-- NOP (R320). -/
  | nop
  /-- TBL_CLEAR (R241). -/
  | tblClear
  /-- TBL_LEN (R242). -/
  | tblLen (sym : Symbol) (len : BitVec 8)
  /-- TBL_BITS (R243). -/
  | tblBits (k : BitVec 4) (sym : Symbol) (data : BitVec 16)
  /-- ENC (R270). -/
  | enc (sym : Symbol)
  /-- FLUSH (R271). -/
  | flush
  /-- CLR_STATUS (R321). -/
  | clrStatus
deriving DecidableEq, Repr

/-- The mnemonics of the opcode map (R107). -/
inductive Mnemonic where
  | nop
  | tblClear
  | tblLen
  | tblBits
  | enc
  | flush
  | clrStatus
deriving DecidableEq, Repr

/-- The row of the opcode map a command belongs to. -/
def Instr.mnemonic : Instr → Mnemonic
  | .nop => .nop
  | .tblClear => .tblClear
  | .tblLen _ _ => .tblLen
  | .tblBits _ _ _ => .tblBits
  | .enc _ => .enc
  | .flush => .flush
  | .clrStatus => .clrStatus

/-- An assembler source command: the seven commands of R111 and the pseudo-commands of R112, with the operands as the
source writes them (numbers of any size, code strings of any length). WellFormed.lean says which of them assemble. -/
inductive AsmCmd where
  | nop
  | tblClear
  | tblLen (sym len : Nat)
  | tblBits (sym k data : Nat)
  | enc (sym : Nat)
  | flush
  | clrStatus
  /-- `tbl.load SYM, "c"` (R112). -/
  | tblLoad (sym : Nat) (code : BitString)
  /-- `tbl.del SYM` (R112). -/
  | tblDel (sym : Nat)
  /-- `tbl.loadall` of a finite map from symbols to code strings (R112). -/
  | tblLoadall (table : List (Nat × BitString))
  /-- `enc.seq "x1 … xn"` (R112). -/
  | encSeq (syms : List Nat)
  /-- `encode "x1 … xn"` (R112). -/
  | encode (syms : List Nat)
deriving DecidableEq, Repr

end Sys2Proof
end

