-- ==== Sys2Proof/WellFormed.lean ====
section
/-! DEFINITION. Which assembler commands produce words (R111, R112): the operand ranges. A command of type `Instr` carries
operands of exactly their fields' widths, so none of them is ill-formed; the source commands `AsmCmd` are where a range can
be missed. -/

namespace Sys2Proof

/-- SYM is a number 0..255 (R111). -/
def symInRange (n : Nat) : Bool := n < 256

/-- LEN is 0..255 (R111). -/
def lenInRange (n : Nat) : Bool := n < 256

/-- K is 0..15 (R111). -/
def chunkInRange (n : Nat) : Bool := n < 16

/-- DATA is 0..0xFFFF (R111). -/
def dataInRange (n : Nat) : Bool := n < 65536

/-- A code string to load has length 1..255: an empty one, or a longer one, is an assembler error (R112). -/
def codeInRange (c : BitString) : Bool := 1 ≤ c.length && c.length ≤ 255

/-- Whether a source command assembles (R111, R112). The keys of a `tbl.loadall` map are distinct, since it is a map. -/
def AsmCmd.wellFormed : AsmCmd → Bool
  | .nop => true
  | .tblClear => true
  | .tblLen sym len => symInRange sym && lenInRange len
  | .tblBits sym k data => symInRange sym && chunkInRange k && dataInRange data
  | .enc sym => symInRange sym
  | .flush => true
  | .clrStatus => true
  | .tblLoad sym code => symInRange sym && codeInRange code
  | .tblDel sym => symInRange sym
  | .tblLoadall table =>
      table.all (fun e => symInRange e.1 && codeInRange e.2) && decide (table.map (·.1)).Nodup
  | .encSeq syms => syms.all symInRange
  | .encode syms => syms.all symInRange

/-- Every `Instr` is well formed: its operands have exactly the widths of their fields (R106). -/
def Instr.wellFormed : Instr → Bool
  | .nop => true
  | .tblClear => true
  | .tblLen sym len => symInRange sym.toNat && lenInRange len.toNat
  | .tblBits k sym data => chunkInRange k.toNat && symInRange sym.toNat && dataInRange data.toNat
  | .enc sym => symInRange sym.toNat
  | .flush => true
  | .clrStatus => true

end Sys2Proof
end

