-- ==== Sys2Proof/Decode.lean ====
section
/-! DEFINITION. The command decoder, total on all 2^32 words (R108), the opcode map as data (R107), the encoder (R102–R105),
and the carriage of words over a byte-addressed platform bus (R75). -/

namespace Sys2Proof

/-! ### Fields of a command word (R101–R106) -/

/-- OP = w[31:28] (R101). -/
def opField (w : Word) : BitVec 4 := w.extractLsb' 28 4

/-- w[27:24]: K of format FB (R104), reserved in formats FL and FS (R103, R105). -/
def kField (w : Word) : BitVec 4 := w.extractLsb' 24 4

/-- SYM = w[23:16] (R103–R105). -/
def symField (w : Word) : Symbol := w.extractLsb' 16 8

/-- w[15:8], reserved in format FL (R103). -/
def midField (w : Word) : BitVec 8 := w.extractLsb' 8 8

/-- LEN = w[7:0] (R103). -/
def lenField (w : Word) : BitVec 8 := w.extractLsb' 0 8

/-- DATA = w[15:0] of format FB (R104), reserved in format FS (R105). -/
def dataField (w : Word) : BitVec 16 := w.extractLsb' 0 16

/-- w[27:0], reserved in format F0 (R102). -/
def restField (w : Word) : BitVec 28 := w.extractLsb' 0 28

/-! ### The decoder (R108) -/

/-- Why a word is illegal (R109). -/
inductive Illegal where
  /-- OP in 0x7..0xF. -/
  | unassignedOpcode
  /-- A legal OP with a reserved bit that is not zero. -/
  | reservedBits
deriving DecidableEq, Repr

/-- A decode result (R108). ILLEGAL is a result, not a command; the reason is the model's own label for R109's two kinds
and has no effect. -/
inductive Decoded where
  | instr (i : Instr)
  | illegal (why : Illegal)
deriving DecidableEq, Repr

/-- Format F0 (R102): the operand bits are reserved. -/
def decodeF0 (i : Instr) (w : Word) : Decoded :=
  if restField w = 0#28 then .instr i else .illegal .reservedBits

/-- Format FL (R103). -/
def decodeFL (w : Word) : Decoded :=
  if kField w = 0#4 ∧ midField w = 0#8 then .instr (.tblLen (symField w) (lenField w))
  else .illegal .reservedBits

/-- Format FB (R104): no reserved bit. -/
def decodeFB (w : Word) : Decoded :=
  .instr (.tblBits (kField w) (symField w) (dataField w))

/-- Format FS (R105). -/
def decodeFS (w : Word) : Decoded :=
  if kField w = 0#4 ∧ dataField w = 0#16 then .instr (.enc (symField w)) else .illegal .reservedBits

/-- `decode(w)` of R108. -/
def decode (w : Word) : Decoded :=
  if opField w = 0x0#4 then decodeF0 .nop w
  else if opField w = 0x1#4 then decodeF0 .tblClear w
  else if opField w = 0x2#4 then decodeFL w
  else if opField w = 0x3#4 then decodeFB w
  else if opField w = 0x4#4 then decodeFS w
  else if opField w = 0x5#4 then decodeF0 .flush w
  else if opField w = 0x6#4 then decodeF0 .clrStatus w
  else .illegal .unassignedOpcode

/-- The command of a decode result, if it is one. -/
def Decoded.instr? : Decoded → Option Instr
  | .instr i => some i
  | .illegal _ => none

/-! ### The encoder, from the same formats -/

/-- A field placed with its lowest bit at bit `lo` of a word, and 0 in every other bit. A word `{…}` of the spec is the
union of its placed fields (R9). -/
def place {n : Nat} (lo : Nat) (f : BitVec n) : Word := f.setWidth 32 <<< lo

/-- The word of a command, each format written as its fields at their places (R102–R105, R111). Reserved bits are 0. -/
def encode : Instr → Word
  | .nop => place 28 0x0#4
  | .tblClear => place 28 0x1#4
  | .tblLen sym len => place 28 0x2#4 ||| place 16 sym ||| place 0 len
  | .tblBits k sym data => place 28 0x3#4 ||| place 24 k ||| place 16 sym ||| place 0 data
  | .enc sym => place 28 0x4#4 ||| place 16 sym
  | .flush => place 28 0x5#4
  | .clrStatus => place 28 0x6#4

/-! ### The opcode map as data (R107) -/

/-- One row of the opcode map. -/
structure OpcodeRow where
  mnemonic : Mnemonic
  pattern : Word
  mask : Word
deriving DecidableEq, Repr

/-- A word selects a row when it agrees with the row's pattern under the row's mask (R107). -/
def OpcodeRow.selects (r : OpcodeRow) (w : Word) : Bool := w &&& r.mask == r.pattern

/-- The seven rows of R107. -/
def opcodeRows : List OpcodeRow :=
  [ ⟨.nop, 0x00000000, 0xFFFFFFFF⟩,
    ⟨.tblClear, 0x10000000, 0xFFFFFFFF⟩,
    ⟨.tblLen, 0x20000000, 0xFF00FF00⟩,
    ⟨.tblBits, 0x30000000, 0xF0000000⟩,
    ⟨.enc, 0x40000000, 0xFF00FFFF⟩,
    ⟨.flush, 0x50000000, 0xFFFFFFFF⟩,
    ⟨.clrStatus, 0x60000000, 0xFFFFFFFF⟩ ]

/-! ### Words on a byte-addressed platform bus (R75) -/

/-- The four bytes that hold a word, lowest address first, for a platform of the given byte order (R75). -/
def wordBytes (e : Endian) (w : Word) : List Byte :=
  let bytes := [w.extractLsb' 0 8, w.extractLsb' 8 8, w.extractLsb' 16 8, w.extractLsb' 24 8]
  match e with
  | .little => bytes
  | .big => bytes.reverse

/-- The word held by four bytes, lowest address first. -/
def wordOfBytes (e : Endian) (b0 b1 b2 b3 : Byte) : Word :=
  match e with
  | .little => place 24 b3 ||| place 16 b2 ||| place 8 b1 ||| place 0 b0
  | .big => place 24 b0 ||| place 16 b1 ||| place 8 b2 ||| place 0 b3

/-- Decoding from a byte stream of a platform bus: one command takes four bytes (R100), and the rest is returned. Fewer
than four bytes hold no command word. -/
def decodeBytes (e : Endian) : List Byte → Option (Decoded × List Byte)
  | b0 :: b1 :: b2 :: b3 :: rest => some (decode (wordOfBytes e b0 b1 b2 b3), rest)
  | _ => none

/-- The command the decoder reads from a word numbered as the opcode table numbers it: bit 0 is the least significant bit,
and every bit at or above `nbits` is 0. -/
def decodeTableWord (nbits w : Nat) : Option Instr :=
  (decode (BitVec.ofNat 32 (w % 2 ^ nbits))).instr?

end Sys2Proof
end

