-- ==== Sys2Proof/Machine/State.lean ====
section
/-! DEFINITION. The state of the block (R30) and of its environment (R15) as plain data, the reasons a step could stop, and
the state after reset (R56). -/

namespace Sys2Proof.Machine

/-- The stream-control state (R35). The encoding 3 is never held, so it has no constructor (I7 of
93_implementation_defined.md). -/
inductive Mode where
  /-- 0: no stream is open. -/
  | idle
  /-- 1: a stream is open and every ENC so far has succeeded. -/
  | stream
  /-- 2: the stream has failed. -/
  | error
deriving DecidableEq, Repr

/-- An output item (R37). -/
inductive Item where
  /-- A data bit, `B0` or `B1`. -/
  | bit (b : Bool)
  /-- An end-of-stream marker with its failure bit, `E0` or `E1`. -/
  | endMark (f : Bool)
deriving DecidableEq, Repr

/-- A table entry (R33): a length and 256 one-bit cells. Cell `STORE[i]` is bit `i` of `store`. -/
structure Entry where
  len : BitVec 8
  store : BitVec 256
deriving DecidableEq, Repr

/-- The error kinds the block records (R401), with the symbol of a SymbolNotFound. -/
inductive ErrorKind where
  /-- SymbolNotFound, code 1, raised by ENC (R270). -/
  | snf (sym : Symbol)
  /-- IllegalCommand, code 2, raised by an illegal word (R322). -/
  | ill
  /-- TableWriteInStream, code 3, raised by a table command in mode STREAM (R240). -/
  | tbl
deriving DecidableEq, Repr

/-- What the environment does in one clock cycle, apart from the command words themselves (R15, R71): whether it asserts
`rst`, whether the host offers its next word, whether the consumer is ready, and which register it reads. -/
structure EnvCycle where
  rst : Bool
  offer : Bool
  outReady : Bool
  csrAddr : CsrAddr
deriving DecidableEq, Repr

/-- The cycle of an environment with nothing scripted (log entry 2): no reset, the host offers its next word if it has one,
the consumer is ready, and the register port reads address 0. -/
def EnvCycle.default : EnvCycle :=
  { rst := false, offer := true, outReady := true, csrAddr := 0#16 }

/-- The state. The first ten fields are the complete state of the block (R30). The last five are the model's own: the
environment the block is connected to (R15), log entries 1 to 3. -/
structure State where
  /-- `T`, the code table (R33), indexed by the symbol's value. -/
  table : Vector Entry 256
  /-- `mode` (R35). -/
  mode : Mode
  /-- `ser`, the serializer queue, head first (R36). -/
  ser : List Item
  /-- `ERR_SNF` (R38). -/
  errSnf : Bool
  /-- `ERR_ILL` (R39). -/
  errIll : Bool
  /-- `ERR_TBL` (R40). -/
  errTbl : Bool
  /-- `ERR_SYM` (R41). -/
  errSym : Symbol
  /-- `SYM_COUNT` (R45). -/
  symCount : Word
  /-- `BIT_COUNT` (R46). -/
  bitCount : Word
  /-- `DROP_COUNT` (R47). -/
  dropCount : Word
  /-- The host's command list (R72): the words it has yet to transfer, next first. -/
  cmds : List Word
  /-- What the environment does in this cycle and the following ones. When the list is used up, every further cycle is
  `EnvCycle.default`. -/
  env : List EnvCycle
  /-- The items the consumer has taken since the last reset, oldest first (R15, R17, R272). -/
  out : List Item
  /-- The items the consumer had taken up to each reset, one list for each reset edge, oldest first: a reset begins the
  items of `out` anew, because the first item after it begins a stream (R272). -/
  earlier : List (List Item)
  /-- The index of the next free value drawn for an output port that carries no item (R73). -/
  draws : Nat
deriving DecidableEq, Repr

/-- No command faults the block and no state stops it: "The block has no exception vector, no trap, no handler and no halt"
(R400). So there is no fault reason; nobody raises one, and that is what the spec says. -/
inductive Fault where
deriving DecidableEq, Repr

/-- Every 32-bit word has a defined effect (R16), so no refusal but the host's own name for an arm without a meaning. -/
inductive Refusal where
  /-- Raised only by an arm of `exec` that has no meaning yet (there is none). Safe: it stops a run. -/
  | notModelled (mnemonic : String)
deriving DecidableEq, Repr

/-- An entry at reset (R56): LEN is 0, so the entry is invalid. DESIGN CHOICE (log entry 4): R56 leaves the STORE cells
unspecified, and the model holds them as 0, one of the two ways I5 of 93_implementation_defined.md allows. -/
def Entry.reset : Entry := { len := 0#8, store := 0#256 }

/-- The state right after reset (R56, R450), with an environment that has sent nothing and taken nothing. -/
def State.reset : State :=
  { table := Vector.replicate 256 Entry.reset
    mode := .idle
    ser := []
    errSnf := false
    errIll := false
    errTbl := false
    errSym := 0#8
    symCount := 0#32
    bitCount := 0#32
    dropCount := 0#32
    cmds := []
    env := []
    out := []
    earlier := []
    draws := 0 }

end Sys2Proof.Machine
end

