-- ==== Sys2Proof/Machine/Operands.lean ====
section
/-! DEFINITION. How the operand fields of a command meet the cells of a table entry (R33, R34, R106), and what of an entry
is visible (R34, R50). -/

namespace Sys2Proof.Machine

/-- Cell `STORE[i]` of an entry (R33). -/
def Entry.cell (e : Entry) (i : Nat) : Bool := e.store.getLsbD i

/-- An entry is valid when its length is not zero (R33). -/
def Entry.valid (e : Entry) : Bool := e.len != 0#8

/-- `code` of an entry (R34): its cells below LEN, index 0 first. It is the empty string for an invalid entry, of which R34
defines no code; no rule reads it then. -/
def Entry.code (e : Entry) : BitString := (List.range e.len.toNat).map e.cell

/-- The entry TBL_LEN writes (R242): the new length, and every cell 0. -/
def Entry.ofLen (len : BitVec 8) : Entry := { len := len, store := 0#256 }

/-- The 256 cells after TBL_BITS (R106, R243): DATA bit `j` goes to cell `16·K + j`, and every other cell stays. -/
def writeChunk (store : BitVec 256) (k : BitVec 4) (data : BitVec 16) : BitVec 256 :=
  (store &&& ~~~ ((0xFFFF#256) <<< (16 * k.toNat))) ||| ((data.setWidth 256) <<< (16 * k.toNat))

/-- The entry TBL_BITS writes (R243): its length is not changed. -/
def Entry.withChunk (e : Entry) (k : BitVec 4) (data : BitVec 16) : Entry :=
  { e with store := writeChunk e.store k data }

/-- The cells an observer can see (R34, R50): those at or above LEN read 0. -/
def Entry.visible (e : Entry) : BitVec 256 := e.store &&& (BitVec.allOnes 256 >>> (256 - e.len.toNat))

/-- ENTRY_CHUNK of an entry (R50): 16 visible cells in bits [15:0], and 0 above. -/
def Entry.chunk (e : Entry) (k : BitVec 4) : Word := (e.visible.extractLsb' (16 * k.toNat) 16).setWidth 32

/-- ENTRY_LEN of an entry (R51). -/
def Entry.lenWord (e : Entry) : Word := e.len.setWidth 32

end Sys2Proof.Machine
end

