-- ==== Sys2Proof/Machine/Flags.lean ====
section
/-! DEFINITION. The error flags, ERR_SYM, the event counters, and the two views that software has of them: STATUS and
`err_irq` (R38–R47, R54, R55). -/

namespace Sys2Proof.Machine

/-- The 2-bit value of `mode` (R35). -/
def Mode.bits : Mode → BitVec 2
  | .idle => 0#2
  | .stream => 1#2
  | .error => 2#2

/-- The code of an error kind (R401). It names the kind and is stored nowhere. -/
def ErrorKind.code : ErrorKind → Nat
  | .snf _ => 1
  | .ill => 2
  | .tbl => 3

/-- `SER_BUSY` (R36). -/
def State.serBusy (s : State) : Bool := !s.ser.isEmpty

/-- The level output `err_irq` (R54, R404). -/
def State.errIrq (s : State) : Bool := s.errSnf || s.errIll || s.errTbl

/-- STATUS (R44): `{8'b0, ERR_SYM, 5'b0, ERR_TBL, ERR_ILL, ERR_SNF, 5'b0, SER_BUSY, mode}`. -/
def State.status (s : State) : Word :=
  place 16 s.errSym ||| place 10 (BitVec.ofBool s.errTbl) ||| place 9 (BitVec.ofBool s.errIll)
    ||| place 8 (BitVec.ofBool s.errSnf) ||| place 2 (BitVec.ofBool s.serBusy) ||| place 0 s.mode.bits

/-- The flags part of R402: the kind's flag is set, and a SymbolNotFound records its symbol if ERR_SNF was 0. -/
def recordError (k : ErrorKind) (s : State) : State :=
  match k with
  | .snf sym => { s with errSym := if s.errSnf then s.errSym else sym, errSnf := true }
  | .ill => { s with errIll := true }
  | .tbl => { s with errTbl := true }

/-- What CLR_STATUS clears (R321). -/
def clearStatus (s : State) : State :=
  { s with
    errSnf := false, errIll := false, errTbl := false, errSym := 0#8
    symCount := 0#32, bitCount := 0#32, dropCount := 0#32 }

/-- The counters of a successful ENC of a code of length `len` (R45, R46), modulo 2^32. -/
def countSymbol (len : BitVec 8) (s : State) : State :=
  { s with symCount := s.symCount + 1#32, bitCount := s.bitCount + len.setWidth 32 }

/-- `discard()` (R403): one more dropped command, modulo 2^32 (R47). -/
def discard (s : State) : State := { s with dropCount := s.dropCount + 1#32 }

end Sys2Proof.Machine
end

