-- ==== Sys2Proof/Machine/Ops.lean ====
section
/-! DEFINITION. The operations the meanings share: the code table, the serializer queue, raising an error (R402), the table
guard (R240), and what reset does to the block (R450). -/

namespace Sys2Proof.Machine

/-! ### The code table (R33) -/

/-- `T[sym]` (R11, R33). -/
def State.entry (s : State) (sym : Symbol) : Entry := s.table[sym.toNat]'sym.isLt

/-- Write of table entry `sym` (R11). -/
def State.setEntry (s : State) (sym : Symbol) (e : Entry) : State :=
  { s with table := s.table.set sym.toNat e sym.isLt }

/-- Every length becomes 0; the cells stay as they are (R241). -/
def State.clearLens (s : State) : State :=
  { s with table := s.table.map (fun e => { e with len := 0#8 }) }

/-! ### The serializer queue (R36) -/

/-- `emit` of items in order (R11): they join the tail of `ser`. -/
def State.emit (s : State) (items : List Item) : State := { s with ser := s.ser ++ items }

/-- `serializerStep()` (R300): the head item goes to the consumer. On an empty queue there is no step. -/
def serializerStep (s : State) : State :=
  match s.ser with
  | [] => s
  | item :: rest => { s with ser := rest, out := s.out ++ [item] }

/-! ### Stream control -/

/-- Write of `mode` (R35). -/
def State.setMode (s : State) (m : Mode) : State := { s with mode := m }

/-- `raise Error(kind, sym)` (R402), the block's whole error entry: the record, and mode ERROR. Nothing else is saved or
changed. -/
def raiseError (k : ErrorKind) (s : State) : State := (recordError k s).setMode .error

/-- `tableGuard()` around a table command's effect (R240). -/
def tableGuard (effect : State → State) (s : State) : State :=
  match s.mode with
  | .error => discard s
  | .stream => raiseError .tbl s
  | .idle => effect s

/-! ### Reset (R450) -/

/-- A rising edge with `rst = 1`: every state element of the block takes its reset value (R56), and items not yet
transferred are lost. The environment keeps what it has; the items the consumer has taken so far are set apart, since the
next one begins a new stream (R272). -/
def resetBlock (s : State) : State :=
  { State.reset with cmds := s.cmds, env := s.env, earlier := s.earlier ++ [s.out], draws := s.draws }

end Sys2Proof.Machine
end

