-- ==== Sys2Proof/Machine/Csr.lean ====
section
/-! DEFINITION. The register port (R42–R53), a pure function of the state, and its place on a platform bus (R6, R80). -/

namespace Sys2Proof.Machine

/-- The answer of a register-port read: `csr_rdata` and `csr_rerr` (R42). -/
structure CsrResp where
  rdata : Word
  rerr : Bool
deriving DecidableEq, Repr

/-- A read that hits a register. -/
def CsrResp.ok (w : Word) : CsrResp := { rdata := w, rerr := false }

/-- A misaligned or unmapped read (R52). -/
def CsrResp.bad : CsrResp := { rdata := 0#32, rerr := true }

/-- PARAMS (R43): `{VERSION, NCHUNK, MAX_LEN, SYM_W}`, a constant. -/
def params : Word :=
  place 24 (BitVec.ofNat 8 Config.version) ||| place 16 (BitVec.ofNat 8 Config.nchunk)
    ||| place 8 (BitVec.ofNat 8 Config.maxLen) ||| place 0 (BitVec.ofNat 8 Config.symW)

/-- The number of valid entries (R48). -/
def State.nvalid (s : State) : Nat := s.table.toList.countP Entry.valid

/-- The sum of the entries' lengths (R49). -/
def State.lenSum (s : State) : Nat := (s.table.toList.map (fun e => e.len.toNat)).sum

/-- `addr[14:7]`, the symbol of an entry address (R42). -/
def csrSym (a : CsrAddr) : Symbol := a.extractLsb' 7 8

/-- `addr[6:0]`, the offset inside an entry's window (R42). -/
def csrOff (a : CsrAddr) : BitVec 7 := a.extractLsb' 0 7

/-- `off[5:2]`, the chunk index of an entry address (R42). -/
def csrChunk (a : CsrAddr) : BitVec 4 := a.extractLsb' 2 4

/-- The windows of the table entries, addresses 0x8000 and above (R42). -/
def csrEntryRead (a : CsrAddr) (s : State) : CsrResp :=
  if (csrOff a).toNat < 0x40 then .ok ((s.entry (csrSym a)).chunk (csrChunk a))
  else if csrOff a = 0x40#7 then .ok (s.entry (csrSym a)).lenWord
  else .bad

/-- `CsrRead(addr)` (R42). -/
def csrRead (a : CsrAddr) (s : State) : CsrResp :=
  if a.extractLsb' 0 2 ≠ 0#2 then .bad
  else if a = 0x0000#16 then .ok params
  else if a = 0x0004#16 then .ok s.status
  else if a = 0x0008#16 then .ok s.symCount
  else if a = 0x000C#16 then .ok s.bitCount
  else if a = 0x0010#16 then .ok s.dropCount
  else if a = 0x0014#16 then .ok (BitVec.ofNat 32 s.nvalid)
  else if a = 0x0018#16 then .ok (BitVec.ofNat 32 s.lenSum)
  else if a.getLsbD 15 then csrEntryRead a s
  else .bad

/-- A read on a platform that shows register-port address 0 at platform address `base` (CSR_BASE, R6, R80, R81): the block
answers the 2^16 addresses from `base` on, and no other address is the block's. -/
def platformRead (base addr : Nat) (s : State) : Option CsrResp :=
  if base ≤ addr ∧ addr < base + 2 ^ 16 then some (csrRead (BitVec.ofNat 16 (addr - base)) s) else none

/-- The four bytes a platform of byte order `e` shows for a register that is read (R75). -/
def csrBytes (e : Endian) (a : CsrAddr) (s : State) : List Byte := wordBytes e (csrRead a s).rdata

/-- A read on this block's own platform, wherever it places the register port (R80). -/
def State.readOnPlatform (s : State) (addr : Nat) : Option CsrResp := platformRead Config.csrBase addr s

/-- The bytes this block's own platform shows for a register (R75). -/
def State.bytesOnPlatform (s : State) (a : CsrAddr) : List Byte := csrBytes Config.platformEndian a s

end Sys2Proof.Machine
end

