-- ==== Sys2Proof/Machine/Control.lean ====
section
/-! DEFINITION. The control commands NOP and CLR_STATUS, and the effect of an illegal word (R320–R322). -/

namespace Sys2Proof.Machine

/-- NOP (R320). -/
def execNop (s : State) : Host.Outcome State Fault Refusal := .next s

/-- CLR_STATUS (R321). -/
def execClrStatus (s : State) : Host.Outcome State Fault Refusal := .next (clearStatus s)

/-- ILLEGAL (R322): the effect of a word the decoder rejects. It is no command, so it has no arm of `exec`. -/
def execIllegal (s : State) : Host.Outcome State Fault Refusal := .next (raiseError .ill s)

end Sys2Proof.Machine
end

