-- ==== Sys2Proof/Machine/Stream.lean ====
section
/-! DEFINITION. The stream commands ENC and FLUSH (R270, R271). -/

namespace Sys2Proof.Machine

/-- The successful path of ENC (R270): the code's bits join the queue in string order, a stream is open, and the counters
count. -/
def encodeSymbol (sym : Symbol) (s : State) : State :=
  countSymbol (s.entry sym).len ((s.emit ((s.entry sym).code.map .bit)).setMode .stream)

/-- ENC (R270). -/
def execEnc (sym : Symbol) (s : State) : Host.Outcome State Fault Refusal :=
  if s.mode = .error then .next (discard s)
  else if (s.entry sym).len = 0#8 then .next (raiseError (.snf sym) s)
  else .next (encodeSymbol sym s)

/-- FLUSH (R271): the failure bit comes from `mode`, not from the flags. -/
def execFlush (s : State) : Host.Outcome State Fault Refusal :=
  .next ((s.emit [.endMark (s.mode == .error)]).setMode .idle)

end Sys2Proof.Machine
end

