-- ==== Sys2Proof/Machine/Table.lean ====
section
/-! DEFINITION. The table commands TBL_CLEAR, TBL_LEN and TBL_BITS (R240–R243). -/

namespace Sys2Proof.Machine

/-- TBL_CLEAR (R241). -/
def execTblClear (s : State) : Host.Outcome State Fault Refusal :=
  .next (tableGuard State.clearLens s)

/-- TBL_LEN (R242). -/
def execTblLen (sym : Symbol) (len : BitVec 8) (s : State) : Host.Outcome State Fault Refusal :=
  .next (tableGuard (fun s => s.setEntry sym (Entry.ofLen len)) s)

/-- TBL_BITS (R243). -/
def execTblBits (k : BitVec 4) (sym : Symbol) (data : BitVec 16) (s : State) : Host.Outcome State Fault Refusal :=
  .next (tableGuard (fun s => s.setEntry sym ((s.entry sym).withChunk k data)) s)

end Sys2Proof.Machine
end

