-- ==== Sys2Proof/Machine/Dispatch.lean ====
section
/-! DEFINITION. One arm per command of R107, each a direct call of its meaning. -/

namespace Sys2Proof.Machine

def exec (i : Instr) (s : State) : Host.Outcome State Fault Refusal :=
  match i with
  | .nop => Sys2Proof.Machine.execNop s
  | .tblClear => Sys2Proof.Machine.execTblClear s
  | .tblLen sym len => Sys2Proof.Machine.execTblLen sym len s
  | .tblBits k sym data => Sys2Proof.Machine.execTblBits k sym data s
  | .enc sym => Sys2Proof.Machine.execEnc sym s
  | .flush => Sys2Proof.Machine.execFlush s
  | .clrStatus => Sys2Proof.Machine.execClrStatus s

end Sys2Proof.Machine
end

