-- ==== Sys2Proof/Machine/Cycle.lean ====
section
/-! DEFINITION. The ports (R71), the two handshakes (R72, R73), one clock cycle for any values of the input ports (R71–R74,
R300, R450), and the input ports as the environment in State drives them (R15, R89). -/

namespace Sys2Proof.Machine

/-- The input ports in one cycle (R71); `clk` is the cycle itself. -/
structure PinsIn where
  rst : Bool
  cmdValid : Bool
  cmdData : Word
  outReady : Bool
  csrAddr : CsrAddr
deriving DecidableEq, Repr

/-- The output ports in one cycle (R71). -/
structure PinsOut where
  cmdReady : Bool
  outValid : Bool
  outEnd : Bool
  outData : Bool
  csrRdata : Word
  csrRerr : Bool
  errIrq : Bool
deriving DecidableEq, Repr

/-- `cmd_ready` (R72). -/
def cmdReady (p : PinsIn) (s : State) : Bool := s.ser.isEmpty && !p.rst

/-- `out_valid` (R73). -/
def outValid (p : PinsIn) (s : State) : Bool := !s.ser.isEmpty && !p.rst

/-- A command word transfers in this cycle (R72). -/
def cmdTransfers (p : PinsIn) (s : State) : Bool := p.cmdValid && cmdReady p s

/-- An output item transfers in this cycle (R73). -/
def itemTransfers (p : PinsIn) (s : State) : Bool := outValid p s && p.outReady

/-- The pair (`out_end`, `out_data`) that presents an item (R73). -/
def Item.pins : Item → Bool × Bool
  | .bit b => (false, b)
  | .endMark f => (true, f)

/-- The pair (`out_end`, `out_data`) of a cycle (R73): the head item while `out_valid` is 1, a free value otherwise (log
entry 3). -/
def itemPins (p : PinsIn) (s : State) : Bool × Bool :=
  match outValid p s, s.ser with
  | true, item :: _ => item.pins
  | _, _ => (Config.freeOutEnd s.draws, Config.freeOutData s.draws)

/-- Every output port in a cycle (R71–R74, R54). -/
def outputs (p : PinsIn) (s : State) : PinsOut :=
  { cmdReady := cmdReady p s
    outValid := outValid p s
    outEnd := (itemPins p s).1
    outData := (itemPins p s).2
    csrRdata := (csrRead p.csrAddr s).rdata
    csrRerr := (csrRead p.csrAddr s).rerr
    errIrq := s.errIrq }

/-- The effect of an accepted command word (R72, R108, R322). -/
def execWord (w : Word) (s : State) : Host.Outcome State Fault Refusal :=
  match decode w with
  | .instr i => exec i s
  | .illegal _ => execIllegal s

/-- What the rising edge that ends a cycle does to the block (R72, R73, R300, R450). At most one of the three events
happens: reset stops both transfers, and the two handshakes ask opposite things of `ser`. With no event nothing changes
(R457). -/
def clockEdge (p : PinsIn) (s : State) : Host.Outcome State Fault Refusal :=
  if p.rst then .next (resetBlock s)
  else if cmdTransfers p s then execWord p.cmdData s
  else if itemTransfers p s then .next (serializerStep s)
  else .next s

/-! ### The environment that drives the input ports (R15) -/

/-- What the environment does in this cycle. -/
def State.envNow (s : State) : EnvCycle := s.env.headD EnvCycle.default

/-- The input ports as this cycle's environment drives them. The host shows the word at the head of its list (R72, R89);
with no word to offer, `cmd_valid` is 0 and nothing reads `cmd_data`. -/
def State.pins (s : State) : PinsIn :=
  { rst := s.envNow.rst
    cmdValid := s.envNow.offer && !s.cmds.isEmpty
    cmdData := s.cmds.headD 0#32
    outReady := s.envNow.outReady
    csrAddr := s.envNow.csrAddr }

/-- The environment after this cycle: a word that transfers leaves the host's list, the cycle's script entry is used up, and
the next free value is drawn. -/
def State.advance (s : State) : State :=
  { s with
    cmds := if cmdTransfers s.pins s then s.cmds.tail else s.cmds
    env := s.env.tail
    draws := s.draws + 1 }

/-- One clock cycle of the block and its environment. -/
def cycleStep (s : State) : Host.Outcome State Fault Refusal := clockEdge s.pins s.advance

/-- The state in which the next cycle transfers exactly the word `w`: the queue is drained to the consumer, the host's list
begins with `w`, and the next cycle is one in which the host offers it and nothing asserts reset. -/
def State.offerWord (s : State) (w : Word) : State :=
  { s with
    ser := []
    out := s.out ++ s.ser
    cmds := w :: s.cmds
    env := EnvCycle.default :: s.env }

end Sys2Proof.Machine
end

