-- ==== Sys2Proof/Machine/Step.lean ====
section
/-! DEFINITION. One step of the machine: one clock cycle, driven by the environment that State holds. -/

namespace Sys2Proof.Machine

/-- One step (R15, R71–R73, R300, R450). -/
def step (s : State) : Host.Outcome State Fault Refusal := cycleStep s

/-- `s` with the command word `w` (its bits at and above `nbits` zero) as the very next word the block accepts. -/
def State.withFetchWord (s : State) (nbits w : Nat) : State :=
  s.offerWord (BitVec.ofNat 32 (w % 2 ^ nbits))

end Sys2Proof.Machine
end

