-- ==== Sys2Proof/Machine/Reference.lean ====
section
/-! DEFINITION. The host-side reference functions, pure functions beside the machine and no steps of it (R4): frequencies,
buildTree, assignCodes (R200–R211), encode and decode (R273, R340–R344), the size estimator (R370, R371), and the
consumer's split of its items into streams (R272, R345). -/

namespace Sys2Proof.Ref

/-- The named failures of the reference functions (R401), and the two uses the spec gives no meaning (R340, R344). -/
inductive HostError where
  /-- `buildTree` of an empty table (R204). -/
  | emptyInput
  /-- A symbol outside the code table (the document's SymbolNotFound, R273, R274). -/
  | symbolNotFound (sym : Symbol)
  /-- `decode` of bits that end in the middle of a code (R341). -/
  | truncatedStream
  /-- `assignCodes` of a malformed node (R211). -/
  | malformedTree
  /-- `decode` with two equal codes: not defined, refused (R340, I10). -/
  | duplicateCodes
  /-- `decodeTree` of a single leaf: not defined (R344). -/
  | singleLeafTraversal
deriving DecidableEq, Repr

/-- A finite map from symbols to positive counts (R202), as pairs in increasing order of the symbol. -/
abbrev FreqTable := List (Symbol × Nat)

/-- A finite map from symbols to codes (R209), as pairs with distinct symbols. -/
abbrev CodeTable := List (Symbol × BitString)

/-- Every symbol in increasing order (R7, R8). -/
def allSymbols : List Symbol := (List.range 256).map (BitVec.ofNat 8)

/-! ### FrequencyCounter (R201, R202) -/

/-- `frequencies(s)` (R202). -/
def frequencies (s : List Symbol) : FreqTable :=
  (allSymbols.filter (fun x => s.contains x)).map (fun x => (x, s.count x))

/-- `F[x]` (R202); 0 outside the domain. -/
def freqOf (F : FreqTable) (x : Symbol) : Nat := (F.lookup x).getD 0

/-! ### TreeBuilder (R203–R208) -/

/-- A Huffman tree (R203). -/
inductive Node where
  | leaf (sym : Symbol)
  | internal (left right : Node)
deriving DecidableEq, Repr

/-- `leaves(n)` (R203), left to right. -/
def Node.leaves : Node → List Symbol
  | .leaf x => [x]
  | .internal l r => l.leaves ++ r.leaves

/-- `weight(n)` (R203), an unbounded number (R208). -/
def Node.weight (F : FreqTable) : Node → Nat
  | .leaf x => freqOf F x
  | .internal l r => l.weight F + r.weight F

/-- The smaller of two symbols by unsigned value (R8). -/
def minSym (a b : Symbol) : Symbol := if a.toNat ≤ b.toNat then a else b

/-- `rep(n)` (R206). -/
def Node.rep : Node → Symbol
  | .leaf x => x
  | .internal l r => minSym l.rep r.rep

/-- `key(a) < key(b)`, lexicographic in weight and representative (R205). -/
def keyLt (F : FreqTable) (a b : Node) : Bool :=
  a.weight F < b.weight F || (a.weight F == b.weight F && a.rep.toNat < b.rep.toNat)

/-- The candidate with the least key among `n` and `ns` (R205). -/
def leastKey (F : FreqTable) (n : Node) (ns : List Node) : Node :=
  ns.foldl (fun m x => if keyLt F x m then x else m) n

/-- The merge loop of R205 on the candidates `C`. `fuel` bounds the number of merges; `C.length` of them are enough, since
each merge leaves one candidate fewer. -/
def mergeLoop (F : FreqTable) : Nat → List Node → Except HostError Node
  | _, [] => .error .emptyInput
  | _, [n] => .ok n
  | 0, n :: _ => .ok n
  | fuel + 1, n :: ns =>
      let a := leastKey F n ns
      match (n :: ns).erase a with
      | [] => .ok a
      | m :: ms =>
          let b := leastKey F m ms
          mergeLoop F fuel (.internal a b :: (m :: ms).erase b)

/-- `buildTree(F)` (R204, R205, R207). -/
def buildTree (F : FreqTable) : Except HostError Node :=
  mergeLoop F F.length (F.map (fun e => .leaf e.1))

/-! ### CodeAssigner (R209–R211) -/

/-- `walk` (R209). -/
def walk : Node → BitString → CodeTable
  | .leaf x, p => [(x, p)]
  | .internal l r, p => walk l (p ++ [false]) ++ walk r (p ++ [true])

/-- `assignCodes(tree)` (R209); a single leaf gets the code "1" (R210). -/
def assignCodes : Node → CodeTable
  | .leaf x => [(x, [true])]
  | .internal l r => walk l [false] ++ walk r [true]

/-- A representation that can hold a malformed tree (R211): a leaf with children, or an internal node with any number of
them. -/
inductive RawTree where
  | leaf (sym : Symbol) (children : List RawTree)
  | internal (children : List RawTree)

/-- The tree a raw tree stands for, or `MalformedTree` (R211). -/
def RawTree.check : RawTree → Except HostError Node
  | .leaf x [] => .ok (.leaf x)
  | .leaf _ (_ :: _) => .error .malformedTree
  | .internal [l, r] =>
      match l.check, r.check with
      | .ok a, .ok b => .ok (.internal a b)
      | _, _ => .error .malformedTree
  | .internal [] => .error .malformedTree
  | .internal [_] => .error .malformedTree
  | .internal (_ :: _ :: _ :: _) => .error .malformedTree

/-- `assignCodes` over the raw representation (R211). -/
def assignCodesRaw (t : RawTree) : Except HostError CodeTable :=
  match t.check with
  | .ok n => .ok (assignCodes n)
  | .error e => .error e

/-- The table a host is expected to load for the input `s` (R200, R212). -/
def codeTableOf (s : List Symbol) : Except HostError CodeTable :=
  match buildTree (frequencies s) with
  | .ok t => .ok (assignCodes t)
  | .error e => .error e

/-! ### Properties of a code table (R212, R340, R456) -/

/-- The domain of a code table. -/
def CodeTable.domain (ct : CodeTable) : List Symbol := ct.map (·.1)

/-- A code table is a map: its symbols are distinct. -/
def CodeTable.isMap (ct : CodeTable) : Prop := ct.domain.Nodup

/-- Every code is non-empty. -/
def CodeTable.codesNonEmpty (ct : CodeTable) : Prop := ∀ e ∈ ct, e.2 ≠ []

/-- No code is a prefix of the code of another symbol (R10, R14, R212). -/
def CodeTable.prefixFree (ct : CodeTable) : Prop :=
  ∀ a ∈ ct, ∀ b ∈ ct, a.1 ≠ b.1 → ¬ a.2 <+: b.2

/-- Codes of distinct symbols differ (R212, R340). -/
def CodeTable.codesDistinct (ct : CodeTable) : Bool := decide (ct.map (·.2)).Nodup

/-! ### Encoder contract (R273) and decoder (R340–R344) -/

/-- `encode(s, CT)` (R273): the concatenation of the symbols' codes, or the first symbol that is absent. -/
def encode (ct : CodeTable) : List Symbol → Except HostError BitString
  | [] => .ok []
  | x :: xs =>
      match ct.lookup x with
      | none => .error (.symbolNotFound x)
      | some c =>
          match encode ct xs with
          | .ok bits => .ok (c ++ bits)
          | .error e => .error e

/-- `inv[acc]` (R340): the symbol whose code is `acc`. -/
def CodeTable.symbolOf (ct : CodeTable) (acc : BitString) : Option Symbol :=
  (ct.find? (fun e => e.2 == acc)).map (·.1)

/-- The loop of `decode` (R340) with its accumulator and output. -/
def decodeLoop (ct : CodeTable) : BitString → List Symbol → BitString → Except HostError (List Symbol)
  | acc, out, [] => if acc = [] then .ok out else .error .truncatedStream
  | acc, out, b :: bs =>
      match ct.symbolOf (acc ++ [b]) with
      | some x => decodeLoop ct [] (out ++ [x]) bs
      | none => decodeLoop ct (acc ++ [b]) out bs

/-- `decode(bits, CT)` (R340). With two equal codes it is not defined, and the model refuses it. -/
def decode (bits : BitString) (ct : CodeTable) : Except HostError (List Symbol) :=
  if ct.codesDistinct then decodeLoop ct [] [] bits else .error .duplicateCodes

/-- The loop of `decodeTree` (R344): `n` is the current node, `t` the root. A bit at a leaf cannot be reached from a root
with children: the loop is at a leaf only after the last bit of a symbol, where it returns to the root. -/
def traverseLoop (t : Node) : Node → List Symbol → BitString → Except HostError (List Symbol)
  | n, out, [] => if n = t then .ok out else .error .truncatedStream
  | .leaf _, _, _ :: _ => .error .singleLeafTraversal
  | .internal l r, out, b :: bs =>
      match if b then r else l with
      | .leaf x => traverseLoop t t (out ++ [x]) bs
      | .internal l' r' => traverseLoop t (.internal l' r') out bs

/-- `decodeTree(bits, t)` (R344), for a tree with at least two leaves. -/
def decodeTree (bits : BitString) (t : Node) : Except HostError (List Symbol) :=
  match t with
  | .leaf _ => .error .singleLeafTraversal
  | .internal l r => traverseLoop (.internal l r) (.internal l r) [] bits

/-! ### SizeEstimator (R370, R371) -/

/-- `rawSize(s)` (R370). -/
def rawSize (s : List Symbol) : Nat := 8 * s.length

/-- The number of bits of `encode(s, CT)`: the sum of the symbols' code lengths (R213, R371). DESIGN CHOICE (log entry 14):
for an input with a symbol outside CT, where `encode` fails and R371 gives no value, such a symbol counts as 0 bits. -/
def encodedLength (s : List Symbol) (ct : CodeTable) : Nat :=
  (s.map (fun x => ((ct.lookup x).getD []).length)).sum

/-- `compressedSize(s, CT)` (R371). DESIGN CHOICE (log entry 14) for an input with a symbol outside CT, as `encodedLength`
says. -/
def compressedSize (s : List Symbol) (ct : CodeTable) : Nat :=
  8 * ct.length + (ct.map (fun e => e.2.length)).sum + encodedLength s ct

/-! ### Streams at the consumer (R272, R345) -/

/-- A finished stream (R272): its data bits and the failure bit of its `End` item. -/
structure Stream where
  bits : BitString
  failed : Bool
deriving DecidableEq, Repr

/-- The loop of the split: `bits` is what the open stream has delivered so far. -/
def splitLoop : BitString → List Machine.Item → List Stream × BitString
  | bits, [] => ([], bits)
  | bits, .bit b :: rest => splitLoop (bits ++ [b]) rest
  | bits, .endMark f :: rest =>
      let r := splitLoop [] rest
      (⟨bits, f⟩ :: r.1, r.2)

/-- Items with no reset among them, split into streams at each `End` item (R272, R345), and the bits of the stream still
open. -/
def splitStreams (items : List Machine.Item) : List Stream × BitString := splitLoop [] items

/-- The streams the consumer has taken (R272), and the bits of the stream it is taking. The first item after a reset begins
a stream, so the items of each reset's span are split on their own, and bits that a reset cut off from their `End` item are
in no stream. -/
def takenStreams (s : Machine.State) : List Stream × BitString :=
  (s.earlier.flatMap (fun items => (splitStreams items).1) ++ (splitStreams s.out).1, (splitStreams s.out).2)

/-- What a consumer makes of a stream (R345): a failed stream gives nothing, its bits unread; a stream that ends `E0` is
decoded with the table the host loaded for it. -/
def decodeStream (st : Stream) (ct : CodeTable) : Option (Except HostError (List Symbol)) :=
  if st.failed then none else some (decode st.bits ct)

end Sys2Proof.Ref
end

