-- ==== Sys2Proof/Machine/Assembler.lean ====
section
/-! DEFINITION. The assembler: the expansions of the source commands to commands and words (R111, R112), the host's
sequence for one input (R452), and the reading of one source line (R111). -/

namespace Sys2Proof.Asm

/-! ### Expansion (R111, R112) -/

/-- `D_K` of R112: bit `j` is the code's bit `16K + j`, and 0 past its end. -/
def chunkData (code : BitString) (k : Nat) : BitVec 16 :=
  BitVec.ofNat 16 (((List.range 16).map (fun j => if code.getD (16 * k + j) false then 2 ^ j else 0)).sum)

/-- The number of chunks of a code of length `n`: `ceil(n/16)` (R112). -/
def chunkCount (n : Nat) : Nat := (n + 15) / 16

/-- The expansion of `tbl.load SYM, "c"` (R112): the length, then every chunk in increasing order. -/
def loadEntry (sym : Symbol) (code : BitString) : List Instr :=
  .tblLen sym (BitVec.ofNat 8 code.length) ::
    (List.range (chunkCount code.length)).map (fun k => .tblBits (BitVec.ofNat 4 k) sym (chunkData code k))

/-- The entries of a code table in increasing order of the symbol (R112). -/
def sortedEntries (ct : Ref.CodeTable) : List (Symbol × BitString) :=
  Ref.allSymbols.filterMap (fun x => (ct.lookup x).map (fun c => (x, c)))

/-- The expansion of `tbl.loadall CT` (R112). -/
def loadTable (ct : Ref.CodeTable) : List Instr :=
  .tblClear :: (sortedEntries ct).flatMap (fun e => loadEntry e.1 e.2)

/-- The expansion of `enc.seq` (R112). -/
def encodeSeq (xs : List Symbol) : List Instr := xs.map .enc

/-- The expansion of `encode` (R112). -/
def encodeStream (xs : List Symbol) : List Instr := encodeSeq xs ++ [.flush]

/-- The commands of a source command whose operands are in range. -/
def expandUnchecked : AsmCmd → List Instr
  | .nop => [.nop]
  | .tblClear => [.tblClear]
  | .tblLen sym len => [.tblLen (BitVec.ofNat 8 sym) (BitVec.ofNat 8 len)]
  | .tblBits sym k data => [.tblBits (BitVec.ofNat 4 k) (BitVec.ofNat 8 sym) (BitVec.ofNat 16 data)]
  | .enc sym => [.enc (BitVec.ofNat 8 sym)]
  | .flush => [.flush]
  | .clrStatus => [.clrStatus]
  | .tblLoad sym code => loadEntry (BitVec.ofNat 8 sym) code
  | .tblDel sym => [.tblLen (BitVec.ofNat 8 sym) 0]
  | .tblLoadall table => loadTable (table.map (fun e => (BitVec.ofNat 8 e.1, e.2)))
  | .encSeq syms => encodeSeq (syms.map (BitVec.ofNat 8))
  | .encode syms => encodeStream (syms.map (BitVec.ofNat 8))

/-- The commands of a source command, or no word at all when an operand is out of range (R111, R112). -/
def expand (c : AsmCmd) : Option (List Instr) := if c.wellFormed then some (expandUnchecked c) else none

/-- The words of a source command (R111). -/
def assemble (c : AsmCmd) : Option (List Word) := (expand c).map (fun is => is.map encode)

/-! ### The host's sequence for one input (R452) -/

/-- The commands the host sends for the input `s` (R452): a FLUSH first if a stream may be open (step 2), the table (steps 1
and 3), CLR_STATUS if it wants its counters to start at 0 (step 4), and the stream (step 5). An empty input has no table,
and `flush` alone gives its empty stream. -/
def hostSequence (s : List Symbol) (flushFirst clear : Bool) : List Instr :=
  (if flushFirst then [.flush] else []) ++
    match Ref.codeTableOf s with
    | .ok ct => loadTable ct ++ (if clear then [.clrStatus] else []) ++ encodeStream s
    | .error _ => [.flush]

/-! ### Source lines (R111, R112) -/

/-- A token of a source line. -/
inductive Token where
  /-- A mnemonic: lower-case letters and dots. -/
  | name (cs : List Char)
  /-- A number, decimal or `0x` hexadecimal. -/
  | num (n : Nat)
  /-- A quoted printable ASCII character (R12). -/
  | chr (n : Nat)
  /-- A string in double quotes. -/
  | str (cs : List Char)
  | comma
  | colon
  | openBrace
  | closeBrace
  /-- Anything else. -/
  | bad
deriving DecidableEq, Repr

/-- The value of a decimal digit. -/
def decDigit (c : Char) : Option Nat :=
  if 48 ≤ c.toNat ∧ c.toNat ≤ 57 then some (c.toNat - 48) else none

/-- The value of a hexadecimal digit, in either case of letter. -/
def hexDigit (c : Char) : Option Nat :=
  if 48 ≤ c.toNat ∧ c.toNat ≤ 57 then some (c.toNat - 48)
  else if 97 ≤ c.toNat ∧ c.toNat ≤ 102 then some (c.toNat - 87)
  else if 65 ≤ c.toNat ∧ c.toNat ≤ 70 then some (c.toNat - 55)
  else none

/-- The number that digits spell in a base after `acc`, if every character is a digit. -/
def digitsFrom (base : Nat) (digit : Char → Option Nat) : Nat → List Char → Option Nat
  | acc, [] => some acc
  | acc, c :: cs =>
      match digit c with
      | some d => digitsFrom base digit (base * acc + d) cs
      | none => none

/-- The number that a non-empty run of digits spells. -/
def digits (base : Nat) (digit : Char → Option Nat) (cs : List Char) : Option Nat :=
  if cs = [] then none else digitsFrom base digit 0 cs

/-- A character of a mnemonic: a dot or a lower-case letter. -/
def nameChar (c : Char) : Bool := c == '.' || (97 ≤ c.toNat && c.toNat ≤ 122)

/-- The token of a run of characters between separators. -/
def wordToken (run : List Char) : Token :=
  match (if run.take 2 = ['0', 'x'] then digits 16 hexDigit (run.drop 2) else digits 10 decDigit run) with
  | some n => .num n
  | none => if run.all nameChar then .name run else .bad

/-- The token of the run collected so far, if there is one. -/
def flushWord (run : List Char) : List Token := if run = [] then [] else [wordToken run]

/-- The token of a quoted character, which is printable ASCII (R12, R111). -/
def chrToken (c : Char) : Token := if 32 ≤ c.toNat ∧ c.toNat ≤ 126 then .chr c.toNat else .bad

/-- The token of a separator: comma, colon and the two braces. -/
def separator (c : Char) : Option Token :=
  match c.toNat with
  | 44 => some .comma
  | 58 => some .colon
  | 123 => some .openBrace
  | 125 => some .closeBrace
  | _ => none

/-- The tokens of a source line up to its comment, which starts with a semicolon (59). The flag says that the scan is
inside double quotes (34); `run` is the run of characters collected so far. Spaces (32) and tabs (9) only separate; a
character operand stands in apostrophes (39). -/
def tokens : Bool → List Char → List Char → List Token
  | true, _, [] => [.bad]
  | true, run, c :: cs => if c.toNat = 34 then .str run :: tokens false [] cs else tokens true (run ++ [c]) cs
  | false, run, [] => flushWord run
  | false, run, c :: cs =>
      if c.toNat = 59 then flushWord run
      else if c.toNat = 32 ∨ c.toNat = 9 then flushWord run ++ tokens false [] cs
      else if c.toNat = 34 then flushWord run ++ tokens true [] cs
      else if c.toNat = 39 then
        match cs with
        | x :: q :: rest =>
            if q.toNat = 39 then flushWord run ++ chrToken x :: tokens false [] rest else [.bad]
        | _ => [.bad]
      else
        match separator c with
        | some t => flushWord run ++ t :: tokens false [] cs
        | none => tokens false (run ++ [c]) cs

/-- A SYM operand: a number or a quoted character (R111). -/
def symOperand : Token → Option Nat
  | .num n => some n
  | .chr n => some n
  | _ => none

/-- The code string that a string of `0` and `1` writes (R10). -/
def codeOperand : List Char → Option BitString
  | [] => some []
  | c :: cs =>
      match codeOperand cs with
      | some bits => if c = '0' then some (false :: bits) else if c = '1' then some (true :: bits) else none
      | none => none

/-- The symbols of a string operand, one per character (log entry 8). DESIGN CHOICE (log entry 8): R12 and R111 speak of
printable ASCII characters for a quoted SYM operand only, so a string takes any character but the closing quote, with its
code point as the symbol; a code point above 255 is out of range. -/
def stringSymbols (cs : List Char) : List Nat := cs.map Char.toNat

/-- The entries of a `tbl.loadall` operand after its opening brace (R112). -/
def tableOperand : List Token → Option (List (Nat × BitString))
  | [.closeBrace] => some []
  | [s, .colon, .str c, .closeBrace] =>
      match symOperand s, codeOperand c with
      | some sym, some code => some [(sym, code)]
      | _, _ => none
  | s :: .colon :: .str c :: .comma :: rest =>
      match symOperand s, codeOperand c, tableOperand rest with
      | some sym, some code, some more => if more = [] then none else some ((sym, code) :: more)
      | _, _, _ => none
  | _ => none

/-- What one source line says. -/
inductive Line where
  /-- Nothing, or a comment alone. DESIGN CHOICE (log entry 8): R111 speaks of one command per line and of comments, and
  not of a line without a command; the model accepts it. -/
  | blank
  | cmd (c : AsmCmd)
  /-- No command of R111 or R112. -/
  | syntaxError
deriving DecidableEq, Repr

/-- A line whose operands could be read, or a syntax error. -/
def Line.ofOption : Option AsmCmd → Line
  | some c => .cmd c
  | none => .syntaxError

/-- One source line (R111, R112). DESIGN CHOICE (log entry 8): what R111 leaves open of a line's form, an empty line among
it. -/
def parseLine (line : List Char) : Line :=
  match tokens false [] line with
  | [] => .blank
  | .name m :: operands =>
      match String.ofList m, operands with
      | "nop", [] => .cmd .nop
      | "tbl.clear", [] => .cmd .tblClear
      | "tbl.len", [s, .comma, .num len] => .ofOption ((symOperand s).map (.tblLen · len))
      | "tbl.bits", [s, .comma, .num k, .comma, .num data] => .ofOption ((symOperand s).map (.tblBits · k data))
      | "enc", [s] => .ofOption ((symOperand s).map .enc)
      | "flush", [] => .cmd .flush
      | "clr.status", [] => .cmd .clrStatus
      | "tbl.load", [s, .comma, .str c] =>
          match symOperand s, codeOperand c with
          | some sym, some code => .cmd (.tblLoad sym code)
          | _, _ => .syntaxError
      | "tbl.del", [s] => .ofOption ((symOperand s).map .tblDel)
      | "tbl.loadall", .openBrace :: rest => .ofOption ((tableOperand rest).map .tblLoadall)
      | "enc.seq", [.str cs] => .cmd (.encSeq (stringSymbols cs))
      | "encode", [.str cs] => .cmd (.encode (stringSymbols cs))
      | _, _ => .syntaxError
  | _ => .syntaxError

/-- The words of a source line: none for a blank line (DESIGN CHOICE, log entry 8), and no result where the assembler reports an error (R111). -/
def assembleLine (line : List Char) : Option (List Word) :=
  match parseLine line with
  | .blank => some []
  | .cmd c => assemble c
  | .syntaxError => none

end Sys2Proof.Asm
end

