-- ==== Sys2Proof/Safety.lean ====
section
/-! DEFINITION. The terms in which claims about runs are made: runs and what transfers in them, the invariant of the block,
what an observer sees (R17), and when a code table is loaded (R216, R273). -/

namespace Sys2Proof.Machine

/-! ### Runs -/

/-- `n` steps of the machine. -/
def runSteps (n : Nat) (s : State) : Host.Outcome State Fault Refusal := Host.Core.run Sys2Proof.core n s

/-- The word that transfers in the coming cycle, if one does (R72). -/
def State.wordTransferring (s : State) : Option Word :=
  if cmdTransfers s.pins s then some s.pins.cmdData else none

/-- The words that transfer in the coming `n` cycles, in order. -/
def wordsTransferred : Nat → State → List Word
  | 0, _ => []
  | n + 1, s =>
      match step s with
      | .next t => s.wordTransferring.toList ++ wordsTransferred n t
      | _ => []

/-- The environment of the cycle `i` cycles ahead. -/
def State.envAt (s : State) (i : Nat) : EnvCycle := s.env.getD i EnvCycle.default

/-- Nothing asserts reset in the coming `n` cycles. -/
def State.noReset (s : State) (n : Nat) : Prop := ∀ i < n, (s.envAt i).rst = false

/-- How many of the coming `n` cycles have a ready consumer. -/
def State.readyCycles (s : State) (n : Nat) : Nat := (List.range n).countP (fun i => (s.envAt i).outReady)

/-- Every item that has transferred to the consumer, oldest first, across resets (R17). -/
def State.delivered (s : State) : List Item := s.earlier.flatten ++ s.out

/-- Every item since the last reset that the block has handed over or still holds, oldest first. -/
def State.items (s : State) : List Item := s.out ++ s.ser

/-! ### The invariant (R36, R41, R301) -/

/-- `ser` holds items of one command: at most 255 data bits of one ENC, or the one end marker of a FLUSH (R36, R301). -/
def serOk (ser : List Item) : Prop :=
  (∃ bits : BitString, ser = bits.map .bit ∧ bits.length ≤ 255) ∨ ∃ f, ser = [.endMark f]

/-- The invariant of the block: the queue holds items of one command (R36, R301), and ERR_SYM is 0 while no SymbolNotFound
is recorded (R41). -/
def State.Inv (s : State) : Prop := serOk s.ser ∧ (s.errSnf = false → s.errSym = 0#8)

/-! ### Observation (R17) -/

/-- Two entries that agree in their length and in every cell below it. They may differ in the cells R34 hides. -/
def Entry.sameCode (a b : Entry) : Prop := a.len = b.len ∧ ∀ i < a.len.toNat, a.cell i = b.cell i

/-- Two states that differ at most in hidden code cells (R34). -/
def sameButHidden (s t : State) : Prop :=
  (∀ sym, (s.entry sym).sameCode (t.entry sym)) ∧ t = { s with table := t.table }

/-- Everything an observer can see of two states agrees (R17): the delivered items, with the resets among them, every register-port read, and
`err_irq`. -/
def sameObservation (s t : State) : Prop :=
  s.out = t.out ∧ s.earlier = t.earlier ∧ (∀ a, csrRead a s = csrRead a t) ∧ s.errIrq = t.errIrq

/-! ### Which command a step executes -/

/-- A word the decoder rejects (R108, R109). -/
def illegalWord (w : Word) : Prop := ∃ r, decode w = .illegal r

/-- The coming cycle accepts and executes the command `i` (R72). -/
def State.executes (s : State) (i : Instr) : Prop := ∃ w, s.wordTransferring = some w ∧ decode w = .instr i

/-- The coming cycle accepts an illegal word (R322). -/
def State.acceptsIllegal (s : State) : Prop := ∃ w, s.wordTransferring = some w ∧ illegalWord w

/-- The table commands (R240). -/
def isTableCommand (i : Instr) : Bool := i.mnemonic matches .tblClear | .tblLen | .tblBits

/-- The commands that mode ERROR discards (R403). -/
def isDiscardable (i : Instr) : Bool := i.mnemonic matches .tblClear | .tblLen | .tblBits | .enc

/-- The symbol `sym` is looked up by the coming cycle's command and is absent (R270, R401). -/
def State.missesOn (s : State) (sym : Symbol) : Prop :=
  s.executes (.enc sym) ∧ s.mode ≠ .error ∧ (s.entry sym).len = 0#8

/-- The symbol `sym` is looked up by the coming cycle's command and is found (R270). -/
def State.hitsOn (s : State) (sym : Symbol) : Prop :=
  s.executes (.enc sym) ∧ s.mode ≠ .error ∧ (s.entry sym).len ≠ 0#8

/-- The effects of a list of command words executed one after the other, with no serializer step between them. -/
def runWords : List Word → State → Host.Outcome State Fault Refusal
  | [], s => .next s
  | w :: ws, s =>
      match execWord w s with
      | .next t => runWords ws t
      | .fault r => .fault r
      | .refused r => .refused r

/-! ### Frames -/

/-- `t` is `s` but for the code table. -/
def sameExceptTable (s t : State) : Prop := t = { s with table := t.table }

/-- `t` is `s` but for what only the serializer and the environment change: the queue, the delivered items, and the
environment's own fields. -/
def sameControl (s t : State) : Prop :=
  t = { s with ser := t.ser, out := t.out, cmds := t.cmds, env := t.env, draws := t.draws }

/-! ### Loaded tables (R216, R273) -/

/-- The block holds exactly the table `ct` (R216): the codes of its domain, and no other valid entry. -/
def State.holdsTable (s : State) (ct : Ref.CodeTable) : Prop :=
  ∀ x, match ct.lookup x with
    | some c => (s.entry x).len.toNat = c.length ∧ (s.entry x).code = c
    | none => (s.entry x).len = 0#8

/-- A code table an assembler loads (R112): a map whose codes have lengths 1 to 255. -/
def loadable (ct : Ref.CodeTable) : Prop := ct.isMap ∧ ∀ e ∈ ct, 1 ≤ e.2.length ∧ e.2.length ≤ 255

/-- The words of a list of commands. -/
def wordsOf (is : List Instr) : List Word := is.map encode

end Sys2Proof.Machine
end

