-- ==== Sys2Proof/Certificates/Slice0/Obligations.lean ====
section
/-! DEFINITION. The statements about the block, from the spec's numbered rules. Statements of a command's result give the
whole next state, so they are its frame and its completion as well. -/

open Sys2Proof Sys2Proof.Machine

/-! ### Encoding -/

/-- Every command is well formed, and decoding its word gives it back: no operand bit of an encoding is dropped. -/
def Obligations.DecodeOfEncodeIsTheCommand : Prop :=
  ∀ i : Instr, i.wellFormed = true ∧ decode (encode i) = .instr i

/-- The other direction: a legal word is the word of the command it decodes to, so each command has exactly one word. -/
def Obligations.EncodeOfDecodeIsTheWord : Prop :=
  ∀ (w : Word) (i : Instr), decode w = .instr i → encode i = w

/-- R107: the rows of the opcode map. A word selects a row exactly when it decodes to a command of that row's mnemonic, no
word selects two rows, and a word that selects none is illegal. -/
def Obligations.OpcodeMapSelectsTheDecodedCommand : Prop :=
  opcodeRows =
    [ ⟨.nop, 0x00000000, 0xFFFFFFFF⟩, ⟨.tblClear, 0x10000000, 0xFFFFFFFF⟩, ⟨.tblLen, 0x20000000, 0xFF00FF00⟩,
      ⟨.tblBits, 0x30000000, 0xF0000000⟩, ⟨.enc, 0x40000000, 0xFF00FFFF⟩, ⟨.flush, 0x50000000, 0xFFFFFFFF⟩,
      ⟨.clrStatus, 0x60000000, 0xFFFFFFFF⟩ ] ∧
  opcodeRows.Pairwise (fun a b => ∀ w, ¬ (a.selects w = true ∧ b.selects w = true)) ∧
  (∀ w, ∀ r ∈ opcodeRows, r.selects w = true ↔ ∃ i, decode w = .instr i ∧ i.mnemonic = r.mnemonic) ∧
  (∀ w, illegalWord w ↔ ∀ r ∈ opcodeRows, r.selects w = false)

/-- R109: the two kinds of illegal word, and the one effect they have in every state. -/
def Obligations.IllegalWordsAreTheTwoKinds : Prop :=
  ∀ w : Word,
    (illegalWord w ↔
      7 ≤ w.toNat / 2 ^ 28 ∨
      ((w.toNat / 2 ^ 28 = 0 ∨ w.toNat / 2 ^ 28 = 1 ∨ w.toNat / 2 ^ 28 = 5 ∨ w.toNat / 2 ^ 28 = 6) ∧
        w.toNat % 2 ^ 28 ≠ 0) ∨
      (w.toNat / 2 ^ 28 = 2 ∧ (w.toNat / 2 ^ 24 % 2 ^ 4 ≠ 0 ∨ w.toNat / 2 ^ 8 % 2 ^ 8 ≠ 0)) ∨
      (w.toNat / 2 ^ 28 = 4 ∧ (w.toNat / 2 ^ 24 % 2 ^ 4 ≠ 0 ∨ w.toNat % 2 ^ 16 ≠ 0))) ∧
    (illegalWord w → ∀ s, execWord w s = .next { s with errIll := true, mode := .error })

/-- Command words of the spec's vectors and the commands they stand for, one of each family. -/
def Obligations.WordsOfTheVectorsDecode : Prop :=
  decode 0x00000000#32 = .instr .nop ∧
  decode 0x10000000#32 = .instr .tblClear ∧
  decode 0x20630003#32 = .instr (.tblLen 0x63#8 3#8) ∧
  decode 0x3FFFFFFF#32 = .instr (.tblBits 15#4 0xFF#8 0xFFFF#16) ∧
  decode 0x30630003#32 = .instr (.tblBits 0#4 0x63#8 3#16) ∧
  decode 0x40620000#32 = .instr (.enc 0x62#8) ∧
  decode 0x50000000#32 = .instr .flush ∧
  decode 0x60000000#32 = .instr .clrStatus

/-! ### Steps, handshakes and reset -/

/-- When the block accepts the host's next word and it decodes to a command, the step is that command's meaning, in the
state whose host list has lost the word and whose environment has moved on by one cycle. -/
def Obligations.StepRunsTheTransferredCommand : Prop :=
  ∀ (s : State) (w : Word) (rest : List Word) (i : Instr),
    s.ser = [] → s.envNow.rst = false → s.envNow.offer = true → s.cmds = w :: rest → decode w = .instr i →
    step s = exec i { s with cmds := rest, env := s.env.tail, draws := s.draws + 1 }

/-- A word placed for the next step is what the next step executes, whatever the state: the queue has been handed to the
consumer, and one environment cycle is used. -/
def Obligations.StepRunsTheFetchedWord : Prop :=
  ∀ (s : State) (nbits w : Nat) (i : Instr),
    decodeTableWord nbits w = some i →
    step (s.withFetchWord nbits w) = exec i { s with ser := [], out := s.out ++ s.ser, draws := s.draws + 1 }

/-- No state stops the block: every step answers a next state. -/
def Obligations.EveryStepAnswersNext : Prop := ∀ s : State, ∃ t, step s = .next t

/-- R72: when `cmd_ready` is 1, what a transfer does, and what happens to the host's list. -/
def Obligations.CommandHandshake : Prop :=
  (∀ (p : PinsIn) (s : State), (outputs p s).cmdReady = true ↔ s.ser = [] ∧ p.rst = false) ∧
  (∀ (p : PinsIn) (s : State), p.cmdValid = true → (outputs p s).cmdReady = true →
    clockEdge p s = execWord p.cmdData s) ∧
  (∀ s t : State, step s = .next t →
    ((s.pins.cmdValid = true ∧ (outputs s.pins s).cmdReady = true) → s.cmds = s.pins.cmdData :: t.cmds) ∧
    (¬ (s.pins.cmdValid = true ∧ (outputs s.pins s).cmdReady = true) → t.cmds = s.cmds)) ∧
  (∀ (p : PinsIn) (s t : State), (outputs p s).cmdReady = false → p.rst = false → clockEdge p s = .next t →
    sameControl s t)

/-- R73: when `out_valid` is 1, how the ports present the head item, and what a transfer does. -/
def Obligations.OutputHandshake : Prop :=
  (∀ (p : PinsIn) (s : State), (outputs p s).outValid = true ↔ s.ser ≠ [] ∧ p.rst = false) ∧
  (∀ (p : PinsIn) (s : State) (b : Bool) (rest : List Item), s.ser = .bit b :: rest → p.rst = false →
    (outputs p s).outEnd = false ∧ (outputs p s).outData = b) ∧
  (∀ (p : PinsIn) (s : State) (f : Bool) (rest : List Item), s.ser = .endMark f :: rest → p.rst = false →
    (outputs p s).outEnd = true ∧ (outputs p s).outData = f) ∧
  (∀ (p : PinsIn) (s : State) (item : Item) (rest : List Item), s.ser = item :: rest →
    (outputs p s).outValid = true → p.outReady = true →
    clockEdge p s = .next { s with ser := rest, out := s.out ++ [item] })

/-- R300: the serializer step, when it is enabled, and that it changes nothing but the queue (and the consumer). -/
def Obligations.SerializerMovesTheHeadItem : Prop :=
  (∀ (p : PinsIn) (s : State) (item : Item) (rest : List Item), s.ser = item :: rest → p.rst = false →
    (p.outReady = true → clockEdge p s = .next { s with ser := rest, out := s.out ++ [item] }) ∧
    (p.outReady = false → clockEdge p s = .next s)) ∧
  (∀ (p : PinsIn) (s t : State), s.ser = [] → clockEdge p s = .next t → t.delivered = s.delivered)

/-- While an item waits for a consumer that is not ready, a step changes nothing of the block or of the host's list, and
the next cycle presents the same item. -/
def Obligations.StalledItemIsHeld : Prop :=
  ∀ s : State, s.ser ≠ [] → s.pins.rst = false → s.pins.outReady = false →
    ∃ t, step s = .next t ∧ t = { s with env := s.env.tail, draws := s.draws + 1 } ∧
      (t.pins.rst = false →
        (outputs t.pins t).outValid = true ∧ (outputs t.pins t).outEnd = (outputs s.pins s).outEnd ∧
        (outputs t.pins t).outData = (outputs s.pins s).outData ∧ (outputs t.pins t).cmdReady = false)

/-- One rising edge with `rst = 1` is a complete reset, nothing transfers in that cycle, and what the consumer has taken is
set apart as the items before this reset. The clauses on the register port are the model's choice of log entry 5, which takes
R450's wording (the state held in the cycle) and not the last sentence of R74 (the reset values). -/
def Obligations.ResetEdgeClearsTheBlock : Prop :=
  ∀ (p : PinsIn) (s : State), p.rst = true →
    (outputs p s).cmdReady = false ∧ (outputs p s).outValid = false ∧
    (outputs p s).csrRdata = (csrRead p.csrAddr s).rdata ∧ (outputs p s).csrRerr = (csrRead p.csrAddr s).rerr ∧
    ∃ t, clockEdge p s = .next t ∧
      (∀ sym, (t.entry sym).len = 0#8 ∧ (t.entry sym).valid = false) ∧ t.mode = .idle ∧ t.ser = [] ∧
      t.errSnf = false ∧ t.errIll = false ∧ t.errTbl = false ∧ t.errSym = 0#8 ∧
      t.symCount = 0#32 ∧ t.bitCount = 0#32 ∧ t.dropCount = 0#32 ∧
      t.out = [] ∧ t.earlier = s.earlier ++ [s.out] ∧ t.delivered = s.delivered ∧ t.cmds = s.cmds

/-- What the reset values of R56 give software: in the reset state, and after any reset edge, the registers read 0,
`err_irq` is 0, a command is accepted in the first cycle without reset, and an ENC of any symbol fails. -/
def Obligations.ReadsAndLookupsAfterReset : Prop :=
  ∀ t : State, (t = State.reset ∨ ∃ p s, p.rst = true ∧ clockEdge p s = .next t) →
    csrRead 0x0004#16 t = ⟨0#32, false⟩ ∧ csrRead 0x0014#16 t = ⟨0#32, false⟩ ∧ csrRead 0x0018#16 t = ⟨0#32, false⟩ ∧
    t.errIrq = false ∧
    (∀ p : PinsIn, p.rst = false → (outputs p t).cmdReady = true) ∧
    (∀ sym, exec (.enc sym) t = .next { t with errSnf := true, errSym := sym, mode := .error })

/-! ### The commands -/

/-- R320: NOP leaves every state unchanged, in every mode, is accepted only when the queue is empty, and is the only legal
word with OP = 0x0. -/
def Obligations.NopChangesNothing : Prop :=
  (∀ s : State, exec .nop s = .next s) ∧
  (∀ s : State, s.executes .nop → s.ser = []) ∧
  decode 0x00000000#32 = .instr .nop ∧
  (∀ w : Word, w.toNat / 2 ^ 28 = 0 → w ≠ 0x00000000#32 → illegalWord w)

/-- R241: TBL_CLEAR. -/
def Obligations.TblClearInvalidatesEveryEntry : Prop :=
  (∀ s : State, s.mode = .idle →
    ∃ t, exec .tblClear s = .next t ∧ sameExceptTable s t ∧
      (∀ sym, (t.entry sym).len = 0#8 ∧ (t.entry sym).store = (s.entry sym).store) ∧
      csrRead 0x0014#16 t = ⟨0#32, false⟩) ∧
  (∀ s : State, s.mode = .stream → exec .tblClear s = .next { s with errTbl := true, mode := .error }) ∧
  (∀ s : State, s.mode = .error → exec .tblClear s = .next { s with dropCount := s.dropCount + 1#32 }) ∧
  decode 0x10000000#32 = .instr .tblClear ∧
  (∀ w : Word, w.toNat / 2 ^ 28 = 1 → w ≠ 0x10000000#32 → illegalWord w)

/-- R242: TBL_LEN. -/
def Obligations.TblLenSetsLengthAndZeroesCells : Prop :=
  (∀ (sym : Symbol) (len : BitVec 8) (s : State),
    (s.mode = .idle →
      ∃ t, exec (.tblLen sym len) s = .next t ∧ sameExceptTable s t ∧
        (t.entry sym).len = len ∧ (∀ i < 256, (t.entry sym).cell i = false) ∧
        (t.entry sym).code = List.replicate len.toNat false ∧
        (len = 0#8 → exec (.enc sym) t = .next (raiseError (.snf sym) t)) ∧
        (∀ x, x ≠ sym → t.entry x = s.entry x)) ∧
    (s.mode = .stream → exec (.tblLen sym len) s = .next { s with errTbl := true, mode := .error }) ∧
    (s.mode = .error → exec (.tblLen sym len) s = .next { s with dropCount := s.dropCount + 1#32 })) ∧
  (∀ w : Word, w &&& 0xFF00FF00#32 = 0x20000000#32 →
    decode w = .instr (.tblLen (BitVec.ofNat 8 (w.toNat / 2 ^ 16)) (BitVec.ofNat 8 w.toNat))) ∧
  (∀ w : Word, w.toNat / 2 ^ 28 = 2 → w.toNat / 2 ^ 24 % 2 ^ 4 ≠ 0 ∨ w.toNat / 2 ^ 8 % 2 ^ 8 ≠ 0 → illegalWord w)

/-- R243: TBL_BITS. -/
def Obligations.TblBitsWritesSixteenCells : Prop :=
  (∀ (k : BitVec 4) (sym : Symbol) (data : BitVec 16) (s : State),
    (s.mode = .idle →
      ∃ t, exec (.tblBits k sym data) s = .next t ∧ sameExceptTable s t ∧
        (t.entry sym).len = (s.entry sym).len ∧
        (∀ j < 16, (t.entry sym).cell (16 * k.toNat + j) = data.getLsbD j) ∧
        (∀ i < 256, i < 16 * k.toNat ∨ 16 * k.toNat + 16 ≤ i → (t.entry sym).cell i = (s.entry sym).cell i) ∧
        (∀ x, x ≠ sym → t.entry x = s.entry x) ∧
        (∀ c : BitVec 4, ∀ j < 16, (t.entry sym).len.toNat ≤ 16 * c.toNat + j →
          ((t.entry sym).chunk c).getLsbD j = false)) ∧
    (s.mode = .stream → exec (.tblBits k sym data) s = .next { s with errTbl := true, mode := .error }) ∧
    (s.mode = .error → exec (.tblBits k sym data) s = .next { s with dropCount := s.dropCount + 1#32 })) ∧
  (∀ w : Word, w &&& 0xF0000000#32 = 0x30000000#32 →
    decode w = .instr (.tblBits (BitVec.ofNat 4 (w.toNat / 2 ^ 24)) (BitVec.ofNat 8 (w.toNat / 2 ^ 16))
      (BitVec.ofNat 16 w.toNat)))

/-- R270: ENC, its three paths and its words. -/
def Obligations.EncLooksUpAndEmitsTheCode : Prop :=
  (∀ (sym : Symbol) (s : State),
    (s.mode = .error → exec (.enc sym) s = .next { s with dropCount := s.dropCount + 1#32 }) ∧
    (s.mode ≠ .error → (s.entry sym).len = 0#8 →
      exec (.enc sym) s =
        .next { s with errSnf := true, errSym := if s.errSnf then s.errSym else sym, mode := .error }) ∧
    (s.mode ≠ .error → (s.entry sym).len ≠ 0#8 →
      exec (.enc sym) s =
        .next { s with
          ser := s.ser ++ (List.range (s.entry sym).len.toNat).map (fun i => .bit ((s.entry sym).store.getLsbD i))
          mode := .stream
          symCount := BitVec.ofNat 32 (s.symCount.toNat + 1)
          bitCount := BitVec.ofNat 32 (s.bitCount.toNat + (s.entry sym).len.toNat) })) ∧
  (∀ w : Word, w &&& 0xFF00FFFF#32 = 0x40000000#32 →
    decode w = .instr (.enc (BitVec.ofNat 8 (w.toNat / 2 ^ 16)))) ∧
  (∀ w : Word, w.toNat / 2 ^ 28 = 4 → w.toNat / 2 ^ 24 % 2 ^ 4 ≠ 0 ∨ w.toNat % 2 ^ 16 ≠ 0 → illegalWord w)

/-- R271: FLUSH, in every mode, and its word. -/
def Obligations.FlushEndsTheStream : Prop :=
  (∀ s : State,
    (s.mode = .error → exec .flush s = .next { s with ser := s.ser ++ [.endMark true], mode := .idle }) ∧
    (s.mode ≠ .error → exec .flush s = .next { s with ser := s.ser ++ [.endMark false], mode := .idle })) ∧
  decode 0x50000000#32 = .instr .flush ∧
  (∀ w : Word, w.toNat / 2 ^ 28 = 5 → w ≠ 0x50000000#32 → illegalWord w)

/-- R321: CLR_STATUS, in every mode, and its word. -/
def Obligations.ClrStatusClearsFlagsAndCounters : Prop :=
  (∀ s : State,
    exec .clrStatus s =
      .next { s with errSnf := false, errIll := false, errTbl := false, errSym := 0#8,
                     symCount := 0#32, bitCount := 0#32, dropCount := 0#32 }) ∧
  (∀ s t : State, exec .clrStatus s = .next t →
    t.errIrq = false ∧ t.mode = s.mode ∧
    (s.mode = .error → ∃ u, exec .flush t = .next u ∧ u.ser = s.ser ++ [.endMark true])) ∧
  decode 0x60000000#32 = .instr .clrStatus ∧
  (∀ w : Word, w.toNat / 2 ^ 28 = 6 → w ≠ 0x60000000#32 → illegalWord w)

/-- R322: an illegal word, in every mode; and the FLUSH that follows it ends a failed stream. -/
def Obligations.IllegalWordFailsTheStream : Prop :=
  ∀ w : Word, (∀ r ∈ opcodeRows, r.selects w = false) →
    ∀ s : State,
      execWord w s = .next { s with errIll := true, mode := .error } ∧
      (∀ t, execWord w s = .next t →
        exec .flush t = .next { t with ser := s.ser ++ [.endMark true], mode := .idle })

/-! ### Errors -/

/-- R402: the record of each error kind. -/
def Obligations.RaiseErrorRecordsTheKind : Prop :=
  ∀ s : State,
    (∀ sym, s.errSnf = false →
      raiseError (.snf sym) s = { s with errSnf := true, errSym := sym, mode := .error }) ∧
    (∀ sym, s.errSnf = true → raiseError (.snf sym) s = { s with mode := .error }) ∧
    raiseError .ill s = { s with errIll := true, mode := .error } ∧
    raiseError .tbl s = { s with errTbl := true, mode := .error } ∧
    (∀ k, ∃ t, exec .flush (raiseError k s) = .next t ∧ t.ser = s.ser ++ [.endMark true])

/-- R403: what mode ERROR discards, and what it does not. -/
def Obligations.ErrorModeDiscardsTableAndEncCommands : Prop :=
  ∀ s : State, s.mode = .error →
    (∀ i, isDiscardable i = true → exec i s = .next { s with dropCount := s.dropCount + 1#32 }) ∧
    exec .nop s = .next s ∧
    exec .flush s = .next { s with ser := s.ser ++ [.endMark true], mode := .idle } ∧
    exec .clrStatus s =
      .next { s with errSnf := false, errIll := false, errTbl := false, errSym := 0#8,
                     symCount := 0#32, bitCount := 0#32, dropCount := 0#32 } ∧
    (∀ w, illegalWord w → execWord w s = .next { s with errIll := true })

/-- R405: the order of the checks, and that one command word raises at most one error. -/
def Obligations.ChecksRunInPriorityOrder : Prop :=
  ∀ (w : Word) (s : State),
    (illegalWord w → execWord w s = .next { s with errIll := true, mode := .error }) ∧
    (∀ i, decode w = .instr i →
      (s.mode = .error → isDiscardable i = true →
        execWord w s = .next { s with dropCount := s.dropCount + 1#32 }) ∧
      (s.mode = .stream → isTableCommand i = true →
        execWord w s = .next { s with errTbl := true, mode := .error }) ∧
      (∀ sym, s.mode ≠ .error → i = .enc sym → (s.entry sym).len = 0#8 →
        execWord w s =
          .next { s with errSnf := true, errSym := if s.errSnf then s.errSym else sym, mode := .error })) ∧
    (∀ t, execWord w s = .next t →
      (t.errSnf && !s.errSnf).toNat + (t.errIll && !s.errIll).toNat + (t.errTbl && !s.errTbl).toNat ≤ 1)

/-! ### The register port -/

/-- R42: the register map, each address written as the map writes it. In every cycle without reset the ports show the read
of the state held (R74); of a reset cycle ResetEdgeClearsTheBlock speaks. -/
def Obligations.RegisterMapReads : Prop :=
  (∀ (p : PinsIn) (s : State), p.rst = false →
    (outputs p s).csrRdata = (csrRead p.csrAddr s).rdata ∧ (outputs p s).csrRerr = (csrRead p.csrAddr s).rerr) ∧
  ∀ s : State,
    csrRead 0x0000#16 s = ⟨0x0110FF08#32, false⟩ ∧
    csrRead 0x0004#16 s = ⟨s.status, false⟩ ∧
    csrRead 0x0008#16 s = ⟨s.symCount, false⟩ ∧
    csrRead 0x000C#16 s = ⟨s.bitCount, false⟩ ∧
    csrRead 0x0010#16 s = ⟨s.dropCount, false⟩ ∧
    csrRead 0x0014#16 s = ⟨BitVec.ofNat 32 s.nvalid, false⟩ ∧
    csrRead 0x0018#16 s = ⟨BitVec.ofNat 32 s.lenSum, false⟩ ∧
    (∀ (sym : Symbol) (k : BitVec 4),
      csrRead (BitVec.ofNat 16 (0x8000 + 0x80 * sym.toNat + 4 * k.toNat)) s = ⟨(s.entry sym).chunk k, false⟩) ∧
    (∀ sym : Symbol,
      csrRead (BitVec.ofNat 16 (0x8000 + 0x80 * sym.toNat + 0x40)) s =
        ⟨(s.entry sym).len.setWidth 32, false⟩) ∧
    (∀ a : CsrAddr, 0x001C ≤ a.toNat → a.toNat < 0x8000 → csrRead a s = ⟨0#32, true⟩) ∧
    (∀ a : CsrAddr, 0x8000 ≤ a.toNat → 0x44 ≤ a.toNat % 0x80 → csrRead a s = ⟨0#32, true⟩) ∧
    (∀ a : CsrAddr, a.toNat % 4 ≠ 0 → csrRead a s = ⟨0#32, true⟩)

/-- R52: exactly the misaligned and the unmapped addresses answer `rerr = 1`, and they read 0. -/
def Obligations.BadReadsAnswerAnError : Prop :=
  ∀ (a : CsrAddr) (s : State),
    ((csrRead a s).rerr = true ↔
      a.toNat % 4 ≠ 0 ∨ (0x1C ≤ a.toNat ∧ a.toNat < 0x8000) ∨ (0x8000 ≤ a.toNat ∧ 0x40 < a.toNat % 0x80)) ∧
    ((csrRead a s).rerr = true → (csrRead a s).rdata = 0#32)

/-- R44: STATUS, field by field. -/
def Obligations.StatusShowsModeBusyAndFlags : Prop :=
  ∀ s : State, ∃ v : Word, csrRead 0x0004#16 s = ⟨v, false⟩ ∧
    v.extractLsb' 0 2 = (match s.mode with | .idle => 0#2 | .stream => 1#2 | .error => 2#2) ∧
    v.extractLsb' 0 2 ≠ 3#2 ∧
    (v.getLsbD 2 = true ↔ s.ser ≠ []) ∧
    v.extractLsb' 3 5 = 0#5 ∧
    v.getLsbD 8 = s.errSnf ∧ v.getLsbD 9 = s.errIll ∧ v.getLsbD 10 = s.errTbl ∧
    v.extractLsb' 11 5 = 0#5 ∧
    v.extractLsb' 16 8 = s.errSym ∧
    v.extractLsb' 24 8 = 0#8

/-- R48: TBL_NVALID counts the valid entries. -/
def Obligations.TblNvalidCountsValidEntries : Prop :=
  ∀ s : State, ∃ v : Word, csrRead 0x0014#16 s = ⟨v, false⟩ ∧
    v.toNat = (List.range 256).countP (fun x => (s.entry (BitVec.ofNat 8 x)).len != 0#8) ∧
    v.toNat ≤ 256 ∧ v.extractLsb' 9 23 = 0#23

/-- R49: TBL_LENSUM sums the lengths. -/
def Obligations.TblLensumSumsTheLengths : Prop :=
  ∀ s : State, ∃ v : Word, csrRead 0x0018#16 s = ⟨v, false⟩ ∧
    v.toNat = ((List.range 256).map (fun x => (s.entry (BitVec.ofNat 8 x)).len.toNat)).sum ∧
    v.toNat ≤ 65280 ∧ v.extractLsb' 16 16 = 0#16

/-- R50: ENTRY_CHUNK reads the code bits below LEN and 0 elsewhere. -/
def Obligations.EntryChunkReadsBitsBelowLen : Prop :=
  ∀ (s : State) (sym : Symbol) (k : BitVec 4), ∃ v : Word,
    csrRead (BitVec.ofNat 16 (0x8000 + 0x80 * sym.toNat + 4 * k.toNat)) s = ⟨v, false⟩ ∧
    (∀ j < 16, v.getLsbD j =
      if 16 * k.toNat + j < (s.entry sym).len.toNat then (s.entry sym).store.getLsbD (16 * k.toNat + j) else false) ∧
    (∀ j < 16, ∀ h : 16 * k.toNat + j < (s.entry sym).code.length,
      v.getLsbD j = (s.entry sym).code[16 * k.toNat + j]) ∧
    v.extractLsb' 16 16 = 0#16

/-- R54: `err_irq` is the OR of the three flags; raising an error raises it, and only CLR_STATUS and reset make it
fall. -/
def Obligations.ErrIrqIsTheOrOfTheFlags : Prop :=
  (∀ (p : PinsIn) (s : State),
    (outputs p s).errIrq = true ↔ s.errSnf = true ∨ s.errIll = true ∨ s.errTbl = true) ∧
  (∀ (k : ErrorKind) (s : State), (raiseError k s).errIrq = true) ∧
  (∀ s t : State, step s = .next t →
    ((s.pins.rst = true ∨ s.executes .clrStatus) → t.errIrq = false) ∧
    (s.errIrq = true → t.errIrq = false → s.pins.rst = true ∨ s.executes .clrStatus))

/-! ### The whole machine -/

/-- The invariant of the block is kept by every step: the queue holds the items of one command, at most 255 bits or one end
marker, and ERR_SYM is 0 while ERR_SNF is 0. -/
def Obligations.BlockInvariantIsKept : Prop :=
  ∀ s t : State, s.Inv → step s = .next t → t.Inv

/-- The reset state meets the invariant. -/
def Obligations.BlockInvariantAtReset : Prop := State.reset.Inv

/-- R38, R39, R40: each sticky flag after a step, exactly. -/
def Obligations.StickyFlagsAreSetAndClearedExactly : Prop :=
  (∀ s t : State, step s = .next t →
    (t.errSnf = true ↔
      s.pins.rst = false ∧ ¬ s.executes .clrStatus ∧ (s.errSnf = true ∨ ∃ sym, s.missesOn sym)) ∧
    (t.errIll = true ↔
      s.pins.rst = false ∧ ¬ s.executes .clrStatus ∧ (s.errIll = true ∨ s.acceptsIllegal)) ∧
    (t.errTbl = true ↔
      s.pins.rst = false ∧ ¬ s.executes .clrStatus ∧
        (s.errTbl = true ∨ ∃ i, isTableCommand i = true ∧ s.executes i ∧ s.mode = .stream))) ∧
  State.reset.errSnf = false ∧ State.reset.errIll = false ∧ State.reset.errTbl = false

/-- R41: ERR_SYM after a step, exactly. -/
def Obligations.ErrSymHoldsTheFirstMissingSymbol : Prop :=
  (∀ s t : State, step s = .next t →
    ((s.pins.rst = true ∨ s.executes .clrStatus) → t.errSym = 0#8) ∧
    (∀ sym, s.missesOn sym → s.errSnf = false → t.errSym = sym ∧ t.errSnf = true) ∧
    (¬ (s.pins.rst = true ∨ s.executes .clrStatus) → (s.errSnf = true ∨ ¬ ∃ sym, s.missesOn sym) →
      t.errSym = s.errSym)) ∧
  State.reset.errSym = 0#8

/-- R45, R46, R47: the three counters after a step, exactly. -/
def Obligations.CountersCountExactly : Prop :=
  (∀ s t : State, step s = .next t →
    ((s.pins.rst = true ∨ s.executes .clrStatus) →
      t.symCount = 0#32 ∧ t.bitCount = 0#32 ∧ t.dropCount = 0#32) ∧
    (∀ sym, s.hitsOn sym →
      t.symCount.toNat = (s.symCount.toNat + 1) % 2 ^ 32 ∧
      t.bitCount.toNat = (s.bitCount.toNat + (s.entry sym).len.toNat) % 2 ^ 32) ∧
    (∀ i, s.executes i → isDiscardable i = true → s.mode = .error →
      t.dropCount.toNat = (s.dropCount.toNat + 1) % 2 ^ 32) ∧
    (¬ (s.pins.rst = true ∨ s.executes .clrStatus) →
      ((¬ ∃ sym, s.hitsOn sym) → t.symCount = s.symCount ∧ t.bitCount = s.bitCount) ∧
      ((¬ ∃ i, s.executes i ∧ isDiscardable i = true ∧ s.mode = .error) → t.dropCount = s.dropCount))) ∧
  (∀ s : State, csrRead 0x0008#16 s = ⟨s.symCount, false⟩ ∧ csrRead 0x000C#16 s = ⟨s.bitCount, false⟩ ∧
    csrRead 0x0010#16 s = ⟨s.dropCount, false⟩) ∧
  State.reset.symCount = 0#32 ∧ State.reset.bitCount = 0#32 ∧ State.reset.dropCount = 0#32

/-- The table changes only at reset and by a table command that executes in mode IDLE. -/
def Obligations.OnlyTableCommandsInIdleChangeTheTable : Prop :=
  ∀ s t : State, step s = .next t → t.table ≠ s.table →
    s.pins.rst = true ∨ (s.mode = .idle ∧ ∃ i, isTableCommand i = true ∧ s.executes i)

/-- How `mode` moves: into STREAM only by a successful ENC from IDLE, into ERROR only by one of the three errors, into IDLE
(from STREAM or ERROR) only by FLUSH or reset, and out of ERROR only into IDLE; in mode ERROR only an illegal word still sets a flag. -/
def Obligations.ModeMovesOnlyAsTheRulesSay : Prop :=
  ∀ s t : State, step s = .next t →
    (s.mode ≠ .stream → t.mode = .stream → s.mode = .idle ∧ ∃ sym, s.hitsOn sym) ∧
    (s.mode ≠ .error → t.mode = .error →
      s.acceptsIllegal ∨ (∃ sym, s.missesOn sym) ∨
      (s.mode = .stream ∧ ∃ i, isTableCommand i = true ∧ s.executes i)) ∧
    (s.mode ≠ .idle → t.mode = .idle → s.pins.rst = true ∨ s.executes .flush) ∧
    (s.mode = .error → t.mode ≠ .error → t.mode = .idle ∧ (s.pins.rst = true ∨ s.executes .flush)) ∧
    (s.mode = .error →
      (t.errSnf = true → s.errSnf = true) ∧ (t.errTbl = true → s.errTbl = true) ∧
      (t.errIll = true → s.errIll = true ∨ s.acceptsIllegal))

/-- The hidden code cells (those at or above LEN, and so the unspecified STORE contents after reset) are never observable:
states that differ only in them look the same, and every step keeps them so. -/
def Obligations.HiddenCellsAreNeverObservable : Prop :=
  ∀ s t : State, sameButHidden s t →
    sameObservation s t ∧ (∀ p, outputs p s = outputs p t) ∧
    ∀ s' t', step s = .next s' → step t = .next t' → sameButHidden s' t'

/-- Whatever the interleaving with the serializer and the consumer, a run without reset leads to what its transferred words
give when they are executed one after the other: the same items in the same order, none lost and none repeated, and the
same table, mode, flags and counters. -/
def Obligations.RunRefinesTheWordSequence : Prop :=
  ∀ (n : Nat) (s t : State), s.noReset n → runSteps n s = .next t →
    ∃ u, runWords (wordsTransferred n s) s = .next u ∧ t.items = u.items ∧ sameControl u t

/-- A consumer that is ready in as many cycles as there are pending items takes them all, in order. -/
def Obligations.ReadyConsumerDrainsTheQueue : Prop :=
  ∀ (n : Nat) (s : State), s.noReset n → s.ser.length ≤ s.readyCycles n →
    ∃ m ≤ n, ∃ t, runSteps m s = .next t ∧ t.ser = [] ∧ t.out = s.out ++ s.ser

/-- A consumer that is never ready stops a block with pending items: no command transfers and nothing changes. -/
def Obligations.UnreadyConsumerStopsTheBlock : Prop :=
  ∀ (n : Nat) (s : State), s.noReset n → s.readyCycles n = 0 → s.ser ≠ [] →
    runSteps n s = .next { s with env := s.env.drop n, draws := s.draws + n } ∧ wordsTransferred n s = []

/-! ### The encoder contract and the host's reference functions -/

/-- R244: the expansion of `tbl.load` in mode IDLE. -/
def Obligations.LoadEntryGivesTheCode : Prop :=
  ∀ (sym : Symbol) (c : BitString) (s : State), 1 ≤ c.length → c.length ≤ 255 → s.mode = .idle →
    ∃ t, runWords (wordsOf (Asm.loadEntry sym c)) s = .next t ∧ sameExceptTable s t ∧
      (t.entry sym).len.toNat = c.length ∧ (t.entry sym).code = c ∧
      (∀ x, x ≠ sym → t.entry x = s.entry x)

/-- The expansion of `tbl.loadall CT` in mode IDLE leaves exactly the table CT in the block, whatever was there before. -/
def Obligations.LoadTableGivesTheTable : Prop :=
  ∀ (ct : Ref.CodeTable) (s : State), loadable ct → s.mode = .idle →
    ∃ t, runWords (wordsOf (Asm.loadTable ct)) s = .next t ∧ sameExceptTable s t ∧ t.holdsTable ct

/-- R273: the encoder contract, for every environment without reset. The items handed over or still queued after the run
are those before it, then the data bits `encode(s, CT)`, then `E0`. -/
def Obligations.EncoderContractOnSuccess : Prop :=
  ∀ (ct : Ref.CodeTable) (xs : List Symbol) (n : Nat) (s t : State),
    ct.codesNonEmpty → s.holdsTable ct → s.mode = .idle → (∀ x ∈ xs, (ct.lookup x).isSome = true) →
    s.noReset n → runSteps n s = .next t → wordsTransferred n s = wordsOf (Asm.encodeStream xs) →
    ∃ bits, Ref.encode ct xs = .ok bits ∧ bits = xs.flatMap (fun x => (ct.lookup x).getD []) ∧
      t.items = s.items ++ bits.map .bit ++ [.endMark false] ∧ t.mode = .idle ∧
      t.symCount.toNat = (s.symCount.toNat + xs.length) % 2 ^ 32 ∧
      t.bitCount.toNat = (s.bitCount.toNat + bits.length) % 2 ^ 32 ∧
      t.errSnf = s.errSnf ∧ t.errIll = s.errIll ∧ t.errTbl = s.errTbl ∧
      t.errSym = s.errSym ∧ t.dropCount = s.dropCount ∧ t.table = s.table

/-- The failing case of the contract: `x` is the first symbol outside the table. -/
def Obligations.EncoderContractOnFailure : Prop :=
  ∀ (ct : Ref.CodeTable) (good : List Symbol) (x : Symbol) (later : List Symbol) (n : Nat) (s t : State),
    ct.codesNonEmpty → s.holdsTable ct → s.mode = .idle → (∀ y ∈ good, (ct.lookup y).isSome = true) →
    ct.lookup x = none → s.noReset n → runSteps n s = .next t →
    wordsTransferred n s = wordsOf (Asm.encodeStream (good ++ x :: later)) →
    ∃ bits, Ref.encode ct good = .ok bits ∧ Ref.encode ct (good ++ x :: later) = .error (.symbolNotFound x) ∧
      t.items = s.items ++ bits.map .bit ++ [.endMark true] ∧ t.mode = .idle ∧
      t.errSnf = true ∧ (s.errSnf = false → t.errSym = x) ∧ (s.errSnf = true → t.errSym = s.errSym) ∧
      t.dropCount.toNat = (s.dropCount.toNat + later.length) % 2 ^ 32 ∧
      t.errIll = s.errIll ∧ t.errTbl = s.errTbl ∧ t.table = s.table ∧ Ref.decodeStream ⟨bits, true⟩ ct = none

/-- R272: the consumer's streams. The items up to an `End` are one stream, and what follows is split on its own; a data bit
that transfers joins the open stream, an `End` item that transfers ends it with its failure bit, and a reset begins anew: the
bits of a stream it cuts off, and the items still pending, are in no stream. -/
def Obligations.StreamsSplitAtEndItems : Prop :=
  (∀ (bits : BitString) (f : Bool) (rest : List Item),
    Ref.splitStreams (bits.map .bit ++ .endMark f :: rest) =
      (⟨bits, f⟩ :: (Ref.splitStreams rest).1, (Ref.splitStreams rest).2)) ∧
  (∀ bits : BitString, Ref.splitStreams (bits.map .bit) = ([], bits)) ∧
  Ref.takenStreams State.reset = ([], []) ∧
  (∀ (p : PinsIn) (s : State) (b : Bool) (rest : List Item),
    s.ser = .bit b :: rest → p.rst = false → p.outReady = true →
    ∃ t, clockEdge p s = .next t ∧
      Ref.takenStreams t = ((Ref.takenStreams s).1, (Ref.takenStreams s).2 ++ [b])) ∧
  (∀ (p : PinsIn) (s : State) (f : Bool) (rest : List Item),
    s.ser = .endMark f :: rest → p.rst = false → p.outReady = true →
    ∃ t, clockEdge p s = .next t ∧
      Ref.takenStreams t = ((Ref.takenStreams s).1 ++ [⟨(Ref.takenStreams s).2, f⟩], [])) ∧
  (∀ (p : PinsIn) (s : State), p.rst = true →
    ∃ t, clockEdge p s = .next t ∧ Ref.takenStreams t = ((Ref.takenStreams s).1, []) ∧ t.ser = []) ∧
  (∀ (p : PinsIn) (s t : State), p.rst = false → itemTransfers p s = false → clockEdge p s = .next t →
    Ref.takenStreams t = Ref.takenStreams s)

/-- The round-trip law over any prefix-free table. -/
def Obligations.DecodeOfEncodeIsTheInput : Prop :=
  ∀ (ct : Ref.CodeTable) (xs : List Symbol), ct.isMap → ct.codesNonEmpty → ct.prefixFree →
    (∀ x ∈ xs, (ct.lookup x).isSome = true) →
    ∃ bits, Ref.encode ct xs = .ok bits ∧ Ref.decode bits ct = .ok xs

/-- Bits that end in the middle of a code fail as a whole: encoded symbols followed by a proper, non-empty initial part of
some code decode to TruncatedStream. -/
def Obligations.IncompleteCodeIsTruncated : Prop :=
  ∀ (ct : Ref.CodeTable) (xs : List Symbol) (bits part : BitString) (y : Symbol) (c : BitString),
    ct.isMap → ct.codesNonEmpty → ct.prefixFree → Ref.encode ct xs = .ok bits →
    (y, c) ∈ ct → part <+: c → part ≠ c → part ≠ [] →
    Ref.decode (bits ++ part) ct = .error .truncatedStream

/-- The headline: from any state with an empty queue, and whatever the environment does short of reset, the host's sequence
for a non-empty input runs to its end, and the consumer has taken one stream, ending `E0`, whose bits decode to the input
with the table the host built. If the block may not be in mode IDLE, the sequence begins with a FLUSH, whose end marker
comes first. The cycles after the state's script are the model's choice of log entry 2: always offering, always ready. -/
def Obligations.HostSequenceRoundTrips : Prop :=
  ∀ (xs : List Symbol) (flushFirst clear : Bool) (s : State),
    xs ≠ [] → (flushFirst = true ∨ s.mode = .idle) → s.ser = [] → (∀ e ∈ s.env, e.rst = false) →
    s.cmds = wordsOf (Asm.hostSequence xs flushFirst clear) →
    ∃ n t ct bits, runSteps n s = .next t ∧ t.cmds = [] ∧ t.ser = [] ∧ t.mode = .idle ∧
      Ref.codeTableOf xs = .ok ct ∧
      t.out = s.out ++ (if flushFirst then [.endMark (s.mode == .error)] else []) ++ bits.map .bit ++
        [.endMark false] ∧
      Ref.decodeStream ⟨bits, false⟩ ct = some (.ok xs)

/-- R202: the frequency table of an input. -/
def Obligations.FrequenciesCountTheInput : Prop :=
  (∀ s : List Symbol,
    ((Ref.frequencies s).map (·.1)).Nodup ∧
    (∀ x, x ∈ (Ref.frequencies s).map (·.1) ↔ x ∈ s) ∧
    (∀ x n, (x, n) ∈ Ref.frequencies s → n = s.count x ∧ 0 < n) ∧
    ((Ref.frequencies s).map (·.2)).sum = s.length) ∧
  Ref.frequencies [] = []

/-- `buildTree` fails only on the empty table, with EmptyInput; otherwise its tree has exactly the table's symbols at its
leaves. -/
def Obligations.BuildTreeHasTheSymbolsAsLeaves : Prop :=
  ∀ F : Ref.FreqTable,
    (F = [] → Ref.buildTree F = .error .emptyInput) ∧
    (F ≠ [] → ∃ t, Ref.buildTree F = .ok t ∧ t.leaves.Perm (F.map (·.1)))

/-- R212: the four properties of a built table. -/
def Obligations.BuiltTablesArePrefixFree : Prop :=
  ∀ s : List Symbol, s ≠ [] → ∃ ct, Ref.codeTableOf s = .ok ct ∧
    ct.isMap ∧ (∀ x, x ∈ ct.domain ↔ x ∈ s) ∧ ct.codesNonEmpty ∧ ct.codesDistinct = true ∧ ct.prefixFree

/-- R214: the length bound, and that every built table fits the block's entries. -/
def Obligations.BuiltCodesAreShort : Prop :=
  ∀ (s : List Symbol) (ct : Ref.CodeTable), Ref.codeTableOf s = .ok ct →
    ∀ e ∈ ct, e.2.length ≤ max 1 ((Ref.frequencies s).length - 1) ∧ e.2.length ≤ 255

/-- R213: the built table is optimal among the prefix-free tables that can encode the input. -/
def Obligations.BuiltTablesAreOptimal : Prop :=
  ∀ (s : List Symbol) (ct : Ref.CodeTable), Ref.codeTableOf s = .ok ct →
    (∃ bits, Ref.encode ct s = .ok bits ∧ bits.length = Ref.encodedLength s ct) ∧
    Ref.encodedLength s ct =
      ((Ref.frequencies s).map (fun e => e.2 * ((ct.lookup e.1).getD []).length)).sum ∧
    ∀ other : Ref.CodeTable, other.isMap → other.codesNonEmpty → other.prefixFree →
      (∀ x ∈ s, (other.lookup x).isSome = true) → Ref.encodedLength s ct ≤ Ref.encodedLength s other

/-- Tree traversal equals the accumulator decoder on every tree with at least two leaves and every bit string. -/
def Obligations.TraversalEqualsDecode : Prop :=
  ∀ (l r : Ref.Node) (bits : BitString),
    Ref.decodeTree bits (.internal l r) = Ref.decode bits (Ref.assignCodes (.internal l r))

/-- R372: the size estimate from the block's registers, after CLR_STATUS and one successful stream. -/
def Obligations.SizesFromTheCounters : Prop :=
  ∀ (ct : Ref.CodeTable) (xs : List Symbol) (n : Nat) (s t : State),
    ct.isMap → ct.codesNonEmpty → s.holdsTable ct → s.mode = .idle → (∀ x ∈ xs, (ct.lookup x).isSome = true) →
    s.noReset n → runSteps n s = .next t →
    wordsTransferred n s = wordsOf (.clrStatus :: Asm.encodeStream xs) →
    xs.length < 2 ^ 32 → Ref.encodedLength xs ct < 2 ^ 32 →
    Ref.rawSize xs = 8 * (csrRead 0x0008#16 t).rdata.toNat ∧
    Ref.compressedSize xs ct =
      8 * (csrRead 0x0014#16 t).rdata.toNat + (csrRead 0x0018#16 t).rdata.toNat + (csrRead 0x000C#16 t).rdata.toNat

/-- The words of R111's syntax as numbers, and that an operand out of range gives no word. -/
def Obligations.AssemblerWordsAndRanges : Prop :=
  (∀ sym len, Asm.assemble (.tblLen sym len) =
    if sym < 256 ∧ len < 256 then some [BitVec.ofNat 32 (2 * 2 ^ 28 + sym * 2 ^ 16 + len)] else none) ∧
  (∀ sym k data, Asm.assemble (.tblBits sym k data) =
    if sym < 256 ∧ k < 16 ∧ data < 65536
    then some [BitVec.ofNat 32 (3 * 2 ^ 28 + k * 2 ^ 24 + sym * 2 ^ 16 + data)] else none) ∧
  (∀ sym, Asm.assemble (.enc sym) =
    if sym < 256 then some [BitVec.ofNat 32 (4 * 2 ^ 28 + sym * 2 ^ 16)] else none) ∧
  Asm.assemble .nop = some [0x00000000#32] ∧ Asm.assemble .tblClear = some [0x10000000#32] ∧
  Asm.assemble .flush = some [0x50000000#32] ∧ Asm.assemble .clrStatus = some [0x60000000#32]

/-- The words of a platform bus: a word survives either byte order, and a byte stream decodes word by word. R75 leaves the
byte order OPEN; that it is one of two, with the least significant byte first or last, is the model's choice of log
entry 7. -/
def Obligations.PlatformBytesCarryTheWord : Prop :=
  ∀ (e : Endian) (w : Word) (rest : List Byte),
    decodeBytes e (wordBytes e w ++ rest) = some (decode w, rest) ∧
    wordBytes .big w = (wordBytes .little w).reverse ∧
    (∀ b ∈ (wordBytes .little w).head?, b.toNat = w.toNat % 2 ^ 8)
end

