-- ==== Sys2Proof/Laws/State.lean ====
section
/-! SUPPORT. One lemma per field per update of State, so that no later proof unfolds a record update. -/

namespace Sys2Proof.Machine

/-! ### CLR_STATUS -/

@[simp] theorem clearStatus_table (s : State) : (clearStatus s).table = s.table := (rfl)
@[simp] theorem clearStatus_mode (s : State) : (clearStatus s).mode = s.mode := (rfl)
@[simp] theorem clearStatus_ser (s : State) : (clearStatus s).ser = s.ser := (rfl)
@[simp] theorem clearStatus_errSnf (s : State) : (clearStatus s).errSnf = false := (rfl)
@[simp] theorem clearStatus_errIll (s : State) : (clearStatus s).errIll = false := (rfl)
@[simp] theorem clearStatus_errTbl (s : State) : (clearStatus s).errTbl = false := (rfl)
@[simp] theorem clearStatus_errSym (s : State) : (clearStatus s).errSym = 0#8 := (rfl)
@[simp] theorem clearStatus_symCount (s : State) : (clearStatus s).symCount = 0#32 := (rfl)
@[simp] theorem clearStatus_bitCount (s : State) : (clearStatus s).bitCount = 0#32 := (rfl)
@[simp] theorem clearStatus_dropCount (s : State) : (clearStatus s).dropCount = 0#32 := (rfl)
@[simp] theorem clearStatus_cmds (s : State) : (clearStatus s).cmds = s.cmds := (rfl)
@[simp] theorem clearStatus_env (s : State) : (clearStatus s).env = s.env := (rfl)
@[simp] theorem clearStatus_out (s : State) : (clearStatus s).out = s.out := (rfl)
@[simp] theorem clearStatus_earlier (s : State) : (clearStatus s).earlier = s.earlier := (rfl)
@[simp] theorem clearStatus_draws (s : State) : (clearStatus s).draws = s.draws := (rfl)

/-! ### The counters of a successful ENC -/

@[simp] theorem countSymbol_table (len : BitVec 8) (s : State) : (countSymbol len s).table = s.table := (rfl)
@[simp] theorem countSymbol_mode (len : BitVec 8) (s : State) : (countSymbol len s).mode = s.mode := (rfl)
@[simp] theorem countSymbol_ser (len : BitVec 8) (s : State) : (countSymbol len s).ser = s.ser := (rfl)
@[simp] theorem countSymbol_errSnf (len : BitVec 8) (s : State) : (countSymbol len s).errSnf = s.errSnf := (rfl)
@[simp] theorem countSymbol_errIll (len : BitVec 8) (s : State) : (countSymbol len s).errIll = s.errIll := (rfl)
@[simp] theorem countSymbol_errTbl (len : BitVec 8) (s : State) : (countSymbol len s).errTbl = s.errTbl := (rfl)
@[simp] theorem countSymbol_errSym (len : BitVec 8) (s : State) : (countSymbol len s).errSym = s.errSym := (rfl)
@[simp] theorem countSymbol_symCount (len : BitVec 8) (s : State) : (countSymbol len s).symCount = s.symCount + 1#32 := (rfl)
@[simp] theorem countSymbol_bitCount (len : BitVec 8) (s : State) : (countSymbol len s).bitCount = s.bitCount + len.setWidth 32 := (rfl)
@[simp] theorem countSymbol_dropCount (len : BitVec 8) (s : State) : (countSymbol len s).dropCount = s.dropCount := (rfl)
@[simp] theorem countSymbol_cmds (len : BitVec 8) (s : State) : (countSymbol len s).cmds = s.cmds := (rfl)
@[simp] theorem countSymbol_env (len : BitVec 8) (s : State) : (countSymbol len s).env = s.env := (rfl)
@[simp] theorem countSymbol_out (len : BitVec 8) (s : State) : (countSymbol len s).out = s.out := (rfl)
@[simp] theorem countSymbol_earlier (len : BitVec 8) (s : State) : (countSymbol len s).earlier = s.earlier := (rfl)
@[simp] theorem countSymbol_draws (len : BitVec 8) (s : State) : (countSymbol len s).draws = s.draws := (rfl)

/-! ### A discard -/

@[simp] theorem discard_table (s : State) : (discard s).table = s.table := (rfl)
@[simp] theorem discard_mode (s : State) : (discard s).mode = s.mode := (rfl)
@[simp] theorem discard_ser (s : State) : (discard s).ser = s.ser := (rfl)
@[simp] theorem discard_errSnf (s : State) : (discard s).errSnf = s.errSnf := (rfl)
@[simp] theorem discard_errIll (s : State) : (discard s).errIll = s.errIll := (rfl)
@[simp] theorem discard_errTbl (s : State) : (discard s).errTbl = s.errTbl := (rfl)
@[simp] theorem discard_errSym (s : State) : (discard s).errSym = s.errSym := (rfl)
@[simp] theorem discard_symCount (s : State) : (discard s).symCount = s.symCount := (rfl)
@[simp] theorem discard_bitCount (s : State) : (discard s).bitCount = s.bitCount := (rfl)
@[simp] theorem discard_dropCount (s : State) : (discard s).dropCount = s.dropCount + 1#32 := (rfl)
@[simp] theorem discard_cmds (s : State) : (discard s).cmds = s.cmds := (rfl)
@[simp] theorem discard_env (s : State) : (discard s).env = s.env := (rfl)
@[simp] theorem discard_out (s : State) : (discard s).out = s.out := (rfl)
@[simp] theorem discard_earlier (s : State) : (discard s).earlier = s.earlier := (rfl)
@[simp] theorem discard_draws (s : State) : (discard s).draws = s.draws := (rfl)

/-! ### A table write -/

@[simp] theorem setEntry_table (sym : Symbol) (e : Entry) (s : State) : (s.setEntry sym e).table = s.table.set sym.toNat e sym.isLt := (rfl)
@[simp] theorem setEntry_mode (sym : Symbol) (e : Entry) (s : State) : (s.setEntry sym e).mode = s.mode := (rfl)
@[simp] theorem setEntry_ser (sym : Symbol) (e : Entry) (s : State) : (s.setEntry sym e).ser = s.ser := (rfl)
@[simp] theorem setEntry_errSnf (sym : Symbol) (e : Entry) (s : State) : (s.setEntry sym e).errSnf = s.errSnf := (rfl)
@[simp] theorem setEntry_errIll (sym : Symbol) (e : Entry) (s : State) : (s.setEntry sym e).errIll = s.errIll := (rfl)
@[simp] theorem setEntry_errTbl (sym : Symbol) (e : Entry) (s : State) : (s.setEntry sym e).errTbl = s.errTbl := (rfl)
@[simp] theorem setEntry_errSym (sym : Symbol) (e : Entry) (s : State) : (s.setEntry sym e).errSym = s.errSym := (rfl)
@[simp] theorem setEntry_symCount (sym : Symbol) (e : Entry) (s : State) : (s.setEntry sym e).symCount = s.symCount := (rfl)
@[simp] theorem setEntry_bitCount (sym : Symbol) (e : Entry) (s : State) : (s.setEntry sym e).bitCount = s.bitCount := (rfl)
@[simp] theorem setEntry_dropCount (sym : Symbol) (e : Entry) (s : State) : (s.setEntry sym e).dropCount = s.dropCount := (rfl)
@[simp] theorem setEntry_cmds (sym : Symbol) (e : Entry) (s : State) : (s.setEntry sym e).cmds = s.cmds := (rfl)
@[simp] theorem setEntry_env (sym : Symbol) (e : Entry) (s : State) : (s.setEntry sym e).env = s.env := (rfl)
@[simp] theorem setEntry_out (sym : Symbol) (e : Entry) (s : State) : (s.setEntry sym e).out = s.out := (rfl)
@[simp] theorem setEntry_earlier (sym : Symbol) (e : Entry) (s : State) : (s.setEntry sym e).earlier = s.earlier := (rfl)
@[simp] theorem setEntry_draws (sym : Symbol) (e : Entry) (s : State) : (s.setEntry sym e).draws = s.draws := (rfl)

/-! ### TBL_CLEAR's write -/

@[simp] theorem clearLens_table (s : State) : (s.clearLens).table = s.table.map (fun e => { e with len := 0#8 }) := (rfl)
@[simp] theorem clearLens_mode (s : State) : (s.clearLens).mode = s.mode := (rfl)
@[simp] theorem clearLens_ser (s : State) : (s.clearLens).ser = s.ser := (rfl)
@[simp] theorem clearLens_errSnf (s : State) : (s.clearLens).errSnf = s.errSnf := (rfl)
@[simp] theorem clearLens_errIll (s : State) : (s.clearLens).errIll = s.errIll := (rfl)
@[simp] theorem clearLens_errTbl (s : State) : (s.clearLens).errTbl = s.errTbl := (rfl)
@[simp] theorem clearLens_errSym (s : State) : (s.clearLens).errSym = s.errSym := (rfl)
@[simp] theorem clearLens_symCount (s : State) : (s.clearLens).symCount = s.symCount := (rfl)
@[simp] theorem clearLens_bitCount (s : State) : (s.clearLens).bitCount = s.bitCount := (rfl)
@[simp] theorem clearLens_dropCount (s : State) : (s.clearLens).dropCount = s.dropCount := (rfl)
@[simp] theorem clearLens_cmds (s : State) : (s.clearLens).cmds = s.cmds := (rfl)
@[simp] theorem clearLens_env (s : State) : (s.clearLens).env = s.env := (rfl)
@[simp] theorem clearLens_out (s : State) : (s.clearLens).out = s.out := (rfl)
@[simp] theorem clearLens_earlier (s : State) : (s.clearLens).earlier = s.earlier := (rfl)
@[simp] theorem clearLens_draws (s : State) : (s.clearLens).draws = s.draws := (rfl)

/-! ### `emit` -/

@[simp] theorem emit_table (items : List Item) (s : State) : (s.emit items).table = s.table := (rfl)
@[simp] theorem emit_mode (items : List Item) (s : State) : (s.emit items).mode = s.mode := (rfl)
@[simp] theorem emit_ser (items : List Item) (s : State) : (s.emit items).ser = s.ser ++ items := (rfl)
@[simp] theorem emit_errSnf (items : List Item) (s : State) : (s.emit items).errSnf = s.errSnf := (rfl)
@[simp] theorem emit_errIll (items : List Item) (s : State) : (s.emit items).errIll = s.errIll := (rfl)
@[simp] theorem emit_errTbl (items : List Item) (s : State) : (s.emit items).errTbl = s.errTbl := (rfl)
@[simp] theorem emit_errSym (items : List Item) (s : State) : (s.emit items).errSym = s.errSym := (rfl)
@[simp] theorem emit_symCount (items : List Item) (s : State) : (s.emit items).symCount = s.symCount := (rfl)
@[simp] theorem emit_bitCount (items : List Item) (s : State) : (s.emit items).bitCount = s.bitCount := (rfl)
@[simp] theorem emit_dropCount (items : List Item) (s : State) : (s.emit items).dropCount = s.dropCount := (rfl)
@[simp] theorem emit_cmds (items : List Item) (s : State) : (s.emit items).cmds = s.cmds := (rfl)
@[simp] theorem emit_env (items : List Item) (s : State) : (s.emit items).env = s.env := (rfl)
@[simp] theorem emit_out (items : List Item) (s : State) : (s.emit items).out = s.out := (rfl)
@[simp] theorem emit_earlier (items : List Item) (s : State) : (s.emit items).earlier = s.earlier := (rfl)
@[simp] theorem emit_draws (items : List Item) (s : State) : (s.emit items).draws = s.draws := (rfl)

/-! ### A write of `mode` -/

@[simp] theorem setMode_table (m : Mode) (s : State) : (s.setMode m).table = s.table := (rfl)
@[simp] theorem setMode_mode (m : Mode) (s : State) : (s.setMode m).mode = m := (rfl)
@[simp] theorem setMode_ser (m : Mode) (s : State) : (s.setMode m).ser = s.ser := (rfl)
@[simp] theorem setMode_errSnf (m : Mode) (s : State) : (s.setMode m).errSnf = s.errSnf := (rfl)
@[simp] theorem setMode_errIll (m : Mode) (s : State) : (s.setMode m).errIll = s.errIll := (rfl)
@[simp] theorem setMode_errTbl (m : Mode) (s : State) : (s.setMode m).errTbl = s.errTbl := (rfl)
@[simp] theorem setMode_errSym (m : Mode) (s : State) : (s.setMode m).errSym = s.errSym := (rfl)
@[simp] theorem setMode_symCount (m : Mode) (s : State) : (s.setMode m).symCount = s.symCount := (rfl)
@[simp] theorem setMode_bitCount (m : Mode) (s : State) : (s.setMode m).bitCount = s.bitCount := (rfl)
@[simp] theorem setMode_dropCount (m : Mode) (s : State) : (s.setMode m).dropCount = s.dropCount := (rfl)
@[simp] theorem setMode_cmds (m : Mode) (s : State) : (s.setMode m).cmds = s.cmds := (rfl)
@[simp] theorem setMode_env (m : Mode) (s : State) : (s.setMode m).env = s.env := (rfl)
@[simp] theorem setMode_out (m : Mode) (s : State) : (s.setMode m).out = s.out := (rfl)
@[simp] theorem setMode_earlier (m : Mode) (s : State) : (s.setMode m).earlier = s.earlier := (rfl)
@[simp] theorem setMode_draws (m : Mode) (s : State) : (s.setMode m).draws = s.draws := (rfl)

/-! ### Reset -/

@[simp] theorem resetBlock_table (s : State) : (resetBlock s).table = Vector.replicate 256 Entry.reset := (rfl)
@[simp] theorem resetBlock_mode (s : State) : (resetBlock s).mode = .idle := (rfl)
@[simp] theorem resetBlock_ser (s : State) : (resetBlock s).ser = [] := (rfl)
@[simp] theorem resetBlock_errSnf (s : State) : (resetBlock s).errSnf = false := (rfl)
@[simp] theorem resetBlock_errIll (s : State) : (resetBlock s).errIll = false := (rfl)
@[simp] theorem resetBlock_errTbl (s : State) : (resetBlock s).errTbl = false := (rfl)
@[simp] theorem resetBlock_errSym (s : State) : (resetBlock s).errSym = 0#8 := (rfl)
@[simp] theorem resetBlock_symCount (s : State) : (resetBlock s).symCount = 0#32 := (rfl)
@[simp] theorem resetBlock_bitCount (s : State) : (resetBlock s).bitCount = 0#32 := (rfl)
@[simp] theorem resetBlock_dropCount (s : State) : (resetBlock s).dropCount = 0#32 := (rfl)
@[simp] theorem resetBlock_cmds (s : State) : (resetBlock s).cmds = s.cmds := (rfl)
@[simp] theorem resetBlock_env (s : State) : (resetBlock s).env = s.env := (rfl)
@[simp] theorem resetBlock_out (s : State) : (resetBlock s).out = [] := (rfl)
@[simp] theorem resetBlock_earlier (s : State) : (resetBlock s).earlier = s.earlier ++ [s.out] := (rfl)
@[simp] theorem resetBlock_draws (s : State) : (resetBlock s).draws = s.draws := (rfl)

/-! ### A successful ENC -/

@[simp] theorem encodeSymbol_table (sym : Symbol) (s : State) : (encodeSymbol sym s).table = s.table := (rfl)
@[simp] theorem encodeSymbol_mode (sym : Symbol) (s : State) : (encodeSymbol sym s).mode = .stream := (rfl)
@[simp] theorem encodeSymbol_ser (sym : Symbol) (s : State) : (encodeSymbol sym s).ser = s.ser ++ (s.entry sym).code.map .bit := (rfl)
@[simp] theorem encodeSymbol_errSnf (sym : Symbol) (s : State) : (encodeSymbol sym s).errSnf = s.errSnf := (rfl)
@[simp] theorem encodeSymbol_errIll (sym : Symbol) (s : State) : (encodeSymbol sym s).errIll = s.errIll := (rfl)
@[simp] theorem encodeSymbol_errTbl (sym : Symbol) (s : State) : (encodeSymbol sym s).errTbl = s.errTbl := (rfl)
@[simp] theorem encodeSymbol_errSym (sym : Symbol) (s : State) : (encodeSymbol sym s).errSym = s.errSym := (rfl)
@[simp] theorem encodeSymbol_symCount (sym : Symbol) (s : State) : (encodeSymbol sym s).symCount = s.symCount + 1#32 := (rfl)
@[simp] theorem encodeSymbol_bitCount (sym : Symbol) (s : State) : (encodeSymbol sym s).bitCount = s.bitCount + (s.entry sym).len.setWidth 32 := (rfl)
@[simp] theorem encodeSymbol_dropCount (sym : Symbol) (s : State) : (encodeSymbol sym s).dropCount = s.dropCount := (rfl)
@[simp] theorem encodeSymbol_cmds (sym : Symbol) (s : State) : (encodeSymbol sym s).cmds = s.cmds := (rfl)
@[simp] theorem encodeSymbol_env (sym : Symbol) (s : State) : (encodeSymbol sym s).env = s.env := (rfl)
@[simp] theorem encodeSymbol_out (sym : Symbol) (s : State) : (encodeSymbol sym s).out = s.out := (rfl)
@[simp] theorem encodeSymbol_earlier (sym : Symbol) (s : State) : (encodeSymbol sym s).earlier = s.earlier := (rfl)
@[simp] theorem encodeSymbol_draws (sym : Symbol) (s : State) : (encodeSymbol sym s).draws = s.draws := (rfl)

/-! ### The environment's part of a cycle -/

@[simp] theorem advance_table (s : State) : (s.advance).table = s.table := (rfl)
@[simp] theorem advance_mode (s : State) : (s.advance).mode = s.mode := (rfl)
@[simp] theorem advance_ser (s : State) : (s.advance).ser = s.ser := (rfl)
@[simp] theorem advance_errSnf (s : State) : (s.advance).errSnf = s.errSnf := (rfl)
@[simp] theorem advance_errIll (s : State) : (s.advance).errIll = s.errIll := (rfl)
@[simp] theorem advance_errTbl (s : State) : (s.advance).errTbl = s.errTbl := (rfl)
@[simp] theorem advance_errSym (s : State) : (s.advance).errSym = s.errSym := (rfl)
@[simp] theorem advance_symCount (s : State) : (s.advance).symCount = s.symCount := (rfl)
@[simp] theorem advance_bitCount (s : State) : (s.advance).bitCount = s.bitCount := (rfl)
@[simp] theorem advance_dropCount (s : State) : (s.advance).dropCount = s.dropCount := (rfl)
@[simp] theorem advance_cmds (s : State) : (s.advance).cmds = if cmdTransfers s.pins s then s.cmds.tail else s.cmds := (rfl)
@[simp] theorem advance_env (s : State) : (s.advance).env = s.env.tail := (rfl)
@[simp] theorem advance_out (s : State) : (s.advance).out = s.out := (rfl)
@[simp] theorem advance_earlier (s : State) : (s.advance).earlier = s.earlier := (rfl)
@[simp] theorem advance_draws (s : State) : (s.advance).draws = s.draws + 1 := (rfl)

/-! ### An offered word -/

@[simp] theorem offerWord_table (w : Word) (s : State) : (s.offerWord w).table = s.table := (rfl)
@[simp] theorem offerWord_mode (w : Word) (s : State) : (s.offerWord w).mode = s.mode := (rfl)
@[simp] theorem offerWord_ser (w : Word) (s : State) : (s.offerWord w).ser = [] := (rfl)
@[simp] theorem offerWord_errSnf (w : Word) (s : State) : (s.offerWord w).errSnf = s.errSnf := (rfl)
@[simp] theorem offerWord_errIll (w : Word) (s : State) : (s.offerWord w).errIll = s.errIll := (rfl)
@[simp] theorem offerWord_errTbl (w : Word) (s : State) : (s.offerWord w).errTbl = s.errTbl := (rfl)
@[simp] theorem offerWord_errSym (w : Word) (s : State) : (s.offerWord w).errSym = s.errSym := (rfl)
@[simp] theorem offerWord_symCount (w : Word) (s : State) : (s.offerWord w).symCount = s.symCount := (rfl)
@[simp] theorem offerWord_bitCount (w : Word) (s : State) : (s.offerWord w).bitCount = s.bitCount := (rfl)
@[simp] theorem offerWord_dropCount (w : Word) (s : State) : (s.offerWord w).dropCount = s.dropCount := (rfl)
@[simp] theorem offerWord_cmds (w : Word) (s : State) : (s.offerWord w).cmds = w :: s.cmds := (rfl)
@[simp] theorem offerWord_env (w : Word) (s : State) : (s.offerWord w).env = EnvCycle.default :: s.env := (rfl)
@[simp] theorem offerWord_out (w : Word) (s : State) : (s.offerWord w).out = s.out ++ s.ser := (rfl)
@[simp] theorem offerWord_earlier (w : Word) (s : State) : (s.offerWord w).earlier = s.earlier := (rfl)
@[simp] theorem offerWord_draws (w : Word) (s : State) : (s.offerWord w).draws = s.draws := (rfl)

/-! ### Raising an error (R402) -/

@[simp] theorem raiseError_table (k : ErrorKind) (s : State) : (raiseError k s).table = s.table := by cases k <;> rfl
@[simp] theorem raiseError_mode (k : ErrorKind) (s : State) : (raiseError k s).mode = .error := (rfl)
@[simp] theorem raiseError_ser (k : ErrorKind) (s : State) : (raiseError k s).ser = s.ser := by cases k <;> rfl
@[simp] theorem raiseError_symCount (k : ErrorKind) (s : State) : (raiseError k s).symCount = s.symCount := by cases k <;> rfl
@[simp] theorem raiseError_bitCount (k : ErrorKind) (s : State) : (raiseError k s).bitCount = s.bitCount := by cases k <;> rfl
@[simp] theorem raiseError_dropCount (k : ErrorKind) (s : State) : (raiseError k s).dropCount = s.dropCount := by cases k <;> rfl
@[simp] theorem raiseError_cmds (k : ErrorKind) (s : State) : (raiseError k s).cmds = s.cmds := by cases k <;> rfl
@[simp] theorem raiseError_env (k : ErrorKind) (s : State) : (raiseError k s).env = s.env := by cases k <;> rfl
@[simp] theorem raiseError_out (k : ErrorKind) (s : State) : (raiseError k s).out = s.out := by cases k <;> rfl
@[simp] theorem raiseError_earlier (k : ErrorKind) (s : State) : (raiseError k s).earlier = s.earlier := by cases k <;> rfl
@[simp] theorem raiseError_draws (k : ErrorKind) (s : State) : (raiseError k s).draws = s.draws := by cases k <;> rfl
@[simp] theorem raiseError_snf_errSnf (sym : Symbol) (s : State) :
    (raiseError (.snf sym) s).errSnf = true := (rfl)
@[simp] theorem raiseError_snf_errIll (sym : Symbol) (s : State) :
    (raiseError (.snf sym) s).errIll = s.errIll := (rfl)
@[simp] theorem raiseError_snf_errTbl (sym : Symbol) (s : State) :
    (raiseError (.snf sym) s).errTbl = s.errTbl := (rfl)
@[simp] theorem raiseError_snf_errSym (sym : Symbol) (s : State) :
    (raiseError (.snf sym) s).errSym = if s.errSnf then s.errSym else sym := (rfl)
@[simp] theorem raiseError_ill_errSnf (s : State) :
    (raiseError .ill s).errSnf = s.errSnf := (rfl)
@[simp] theorem raiseError_ill_errIll (s : State) :
    (raiseError .ill s).errIll = true := (rfl)
@[simp] theorem raiseError_ill_errTbl (s : State) :
    (raiseError .ill s).errTbl = s.errTbl := (rfl)
@[simp] theorem raiseError_ill_errSym (s : State) :
    (raiseError .ill s).errSym = s.errSym := (rfl)
@[simp] theorem raiseError_tbl_errSnf (s : State) :
    (raiseError .tbl s).errSnf = s.errSnf := (rfl)
@[simp] theorem raiseError_tbl_errIll (s : State) :
    (raiseError .tbl s).errIll = s.errIll := (rfl)
@[simp] theorem raiseError_tbl_errTbl (s : State) :
    (raiseError .tbl s).errTbl = true := (rfl)
@[simp] theorem raiseError_tbl_errSym (s : State) :
    (raiseError .tbl s).errSym = s.errSym := (rfl)

/-! ### The serializer step (R300) -/

@[simp] theorem serializerStep_table (s : State) : (serializerStep s).table = s.table := by
  unfold serializerStep; split <;> rfl
@[simp] theorem serializerStep_mode (s : State) : (serializerStep s).mode = s.mode := by
  unfold serializerStep; split <;> rfl
@[simp] theorem serializerStep_ser (s : State) : (serializerStep s).ser = s.ser.tail := by
  unfold serializerStep; split <;> simp_all
@[simp] theorem serializerStep_errSnf (s : State) : (serializerStep s).errSnf = s.errSnf := by
  unfold serializerStep; split <;> rfl
@[simp] theorem serializerStep_errIll (s : State) : (serializerStep s).errIll = s.errIll := by
  unfold serializerStep; split <;> rfl
@[simp] theorem serializerStep_errTbl (s : State) : (serializerStep s).errTbl = s.errTbl := by
  unfold serializerStep; split <;> rfl
@[simp] theorem serializerStep_errSym (s : State) : (serializerStep s).errSym = s.errSym := by
  unfold serializerStep; split <;> rfl
@[simp] theorem serializerStep_symCount (s : State) : (serializerStep s).symCount = s.symCount := by
  unfold serializerStep; split <;> rfl
@[simp] theorem serializerStep_bitCount (s : State) : (serializerStep s).bitCount = s.bitCount := by
  unfold serializerStep; split <;> rfl
@[simp] theorem serializerStep_dropCount (s : State) : (serializerStep s).dropCount = s.dropCount := by
  unfold serializerStep; split <;> rfl
@[simp] theorem serializerStep_cmds (s : State) : (serializerStep s).cmds = s.cmds := by
  unfold serializerStep; split <;> rfl
@[simp] theorem serializerStep_env (s : State) : (serializerStep s).env = s.env := by
  unfold serializerStep; split <;> rfl
@[simp] theorem serializerStep_out (s : State) : (serializerStep s).out = s.out ++ s.ser.head?.toList := by
  unfold serializerStep; split <;> simp_all
@[simp] theorem serializerStep_earlier (s : State) : (serializerStep s).earlier = s.earlier := by
  unfold serializerStep; split <;> rfl
@[simp] theorem serializerStep_draws (s : State) : (serializerStep s).draws = s.draws := by
  unfold serializerStep; split <;> rfl

/-- Nothing of what the block holds or has delivered is lost by a serializer step (R303). -/
theorem serializerStep_items (s : State) : (serializerStep s).out ++ (serializerStep s).ser = s.out ++ s.ser := by
  cases h : s.ser <;> simp [h]

/-! ### Fields of the state after reset (R56) -/

@[simp] theorem reset_table : State.reset.table = Vector.replicate 256 Entry.reset := (rfl)
@[simp] theorem reset_mode : State.reset.mode = .idle := (rfl)
@[simp] theorem reset_ser : State.reset.ser = [] := (rfl)
@[simp] theorem reset_errSnf : State.reset.errSnf = false := (rfl)
@[simp] theorem reset_errIll : State.reset.errIll = false := (rfl)
@[simp] theorem reset_errTbl : State.reset.errTbl = false := (rfl)
@[simp] theorem reset_errSym : State.reset.errSym = 0#8 := (rfl)
@[simp] theorem reset_symCount : State.reset.symCount = 0#32 := (rfl)
@[simp] theorem reset_bitCount : State.reset.bitCount = 0#32 := (rfl)
@[simp] theorem reset_dropCount : State.reset.dropCount = 0#32 := (rfl)
@[simp] theorem reset_cmds : State.reset.cmds = [] := (rfl)
@[simp] theorem reset_env : State.reset.env = [] := (rfl)
@[simp] theorem reset_out : State.reset.out = [] := (rfl)
@[simp] theorem reset_earlier : State.reset.earlier = [] := (rfl)
@[simp] theorem reset_draws : State.reset.draws = 0 := (rfl)

end Sys2Proof.Machine
end

