-- ==== Sys2Proof/Laws/Table.lean ====
section
/-! SUPPORT. What the operations over the code table and its entries do: reads after writes (R33), the cells of an entry
after a command (R242, R243), its code (R34), and what of it the register port shows (R50). -/

namespace Sys2Proof.Machine

/-! ### Reads of the table -/

/-- A read of the table sees the table alone. -/
theorem entry_congr {s t : State} (h : s.table = t.table) (sym : Symbol) : s.entry sym = t.entry sym := by
  simp [State.entry, h]

@[simp] theorem entry_setEntry_same (s : State) (sym : Symbol) (e : Entry) : (s.setEntry sym e).entry sym = e := by
  simp [State.entry]

theorem entry_setEntry_other (s : State) {sym x : Symbol} (e : Entry) (h : x ≠ sym) :
    (s.setEntry sym e).entry x = s.entry x := by
  have hn : sym.toNat ≠ x.toNat := fun hc => h (BitVec.eq_of_toNat_eq hc.symm)
  simp [State.entry, Vector.getElem_set_ne, hn]

/-- The whole of a table write: the written entry reads back, and every other entry stays. -/
theorem entry_setEntry (s : State) (sym x : Symbol) (e : Entry) :
    (s.setEntry sym e).entry x = if x = sym then e else s.entry x := by
  split
  · next h => subst h; simp
  · next h => exact entry_setEntry_other s e h

@[simp] theorem entry_clearLens (s : State) (x : Symbol) :
    s.clearLens.entry x = { s.entry x with len := 0#8 } := by
  simp [State.entry]

@[simp] theorem entry_resetBlock (s : State) (x : Symbol) : (resetBlock s).entry x = Entry.reset := by
  simp [State.entry]

@[simp] theorem entry_reset (x : Symbol) : State.reset.entry x = Entry.reset := by
  simp [State.entry]

@[simp] theorem entry_clearStatus (s : State) (x : Symbol) : (clearStatus s).entry x = s.entry x := (rfl)
@[simp] theorem entry_countSymbol (len : BitVec 8) (s : State) (x : Symbol) :
    (countSymbol len s).entry x = s.entry x := (rfl)
@[simp] theorem entry_discard (s : State) (x : Symbol) : (discard s).entry x = s.entry x := (rfl)
@[simp] theorem entry_emit (items : List Item) (s : State) (x : Symbol) : (s.emit items).entry x = s.entry x := (rfl)
@[simp] theorem entry_setMode (m : Mode) (s : State) (x : Symbol) : (s.setMode m).entry x = s.entry x := (rfl)
@[simp] theorem entry_encodeSymbol (sym : Symbol) (s : State) (x : Symbol) :
    (encodeSymbol sym s).entry x = s.entry x := (rfl)
@[simp] theorem entry_advance (s : State) (x : Symbol) : s.advance.entry x = s.entry x := (rfl)
@[simp] theorem entry_offerWord (w : Word) (s : State) (x : Symbol) : (s.offerWord w).entry x = s.entry x := (rfl)
@[simp] theorem entry_raiseError (k : ErrorKind) (s : State) (x : Symbol) :
    (raiseError k s).entry x = s.entry x := entry_congr (raiseError_table k s) x
@[simp] theorem entry_serializerStep (s : State) (x : Symbol) :
    (serializerStep s).entry x = s.entry x := entry_congr (serializerStep_table s) x

/-! ### Entries and their cells -/

@[simp] theorem ofLen_len (len : BitVec 8) : (Entry.ofLen len).len = len := (rfl)
@[simp] theorem ofLen_cell (len : BitVec 8) (i : Nat) : (Entry.ofLen len).cell i = false := by
  simp [Entry.ofLen, Entry.cell]
@[simp] theorem reset_len : Entry.reset.len = 0#8 := (rfl)
@[simp] theorem withChunk_len (e : Entry) (k : BitVec 4) (data : BitVec 16) : (e.withChunk k data).len = e.len := (rfl)

/-- The cells after TBL_BITS (R243): DATA bit `j` is at `16·K + j`, and every other cell is as before. -/
theorem withChunk_cell (e : Entry) (k : BitVec 4) (data : BitVec 16) (i : Nat) :
    (e.withChunk k data).cell i =
      if 16 * k.toNat ≤ i ∧ i < 16 * k.toNat + 16 then data.getLsbD (i - 16 * k.toNat) else e.cell i := by
  have hk := k.isLt
  have hones : (0xFFFF#256 : BitVec 256) = (BitVec.allOnes 16).setWidth 256 := by decide
  simp only [Entry.withChunk, Entry.cell, writeChunk, hones, BitVec.getLsbD_or, BitVec.getLsbD_and, BitVec.getLsbD_not,
    BitVec.getLsbD_shiftLeft, BitVec.getLsbD_setWidth, BitVec.getLsbD_allOnes]
  by_cases h3 : i < 256
  · by_cases h1 : i < 16 * k.toNat
    · have h2 : ¬ 16 * k.toNat ≤ i := by omega
      simp [h1, h2, h3]
    · have h2 : 16 * k.toNat ≤ i := by omega
      by_cases h4 : i < 16 * k.toNat + 16
      · have h5 : i - 16 * k.toNat < 16 := by omega
        have h6 : i - 16 * k.toNat < 256 := by omega
        simp [h1, h2, h3, h4, h5, h6]
      · have h5 : ¬ i - 16 * k.toNat < 16 := by omega
        have h8 : data.getLsbD (i - 16 * k.toNat) = false := BitVec.getLsbD_of_ge _ _ (by omega)
        simp [h1, h3, h4, h5, h8]
  · have h4 : ¬ (16 * k.toNat ≤ i ∧ i < 16 * k.toNat + 16) := by omega
    simp [h3, h4, BitVec.getLsbD_of_ge e.store i (by omega)]

/-! ### Codes (R34) -/

@[simp] theorem code_length (e : Entry) : e.code.length = e.len.toNat := by simp [Entry.code]

theorem code_getElem (e : Entry) (i : Nat) (h : i < e.code.length) : e.code[i] = e.cell i := by
  simp [Entry.code]

/-- The code of an entry depends on its length and the cells below it alone (R34). -/
theorem code_congr {a b : Entry} (hl : a.len = b.len) (hc : ∀ i < a.len.toNat, a.cell i = b.cell i) :
    a.code = b.code := by
  simp only [Entry.code, ← hl]
  exact List.map_congr_left (fun i hi => hc i (List.mem_range.mp hi))

theorem code_eq_nil_iff (e : Entry) : e.code = [] ↔ e.len = 0#8 := by
  rw [← List.length_eq_zero_iff, code_length]
  exact ⟨fun h => BitVec.eq_of_toNat_eq (by simpa using h), fun h => by simp [h]⟩

theorem code_length_le (e : Entry) : e.code.length ≤ 255 := by
  have := e.len.isLt
  simp
  omega

/-! ### What the register port shows of an entry (R50) -/

/-- A visible cell: the stored bit below LEN, 0 from LEN on (R50). -/
theorem visible_getLsbD (e : Entry) (i : Nat) : e.visible.getLsbD i = (decide (i < e.len.toNat) && e.cell i) := by
  have hl := e.len.isLt
  simp only [Entry.visible, Entry.cell, BitVec.getLsbD_and, BitVec.getLsbD_ushiftRight, BitVec.getLsbD_allOnes]
  rw [Bool.and_comm]
  congr 1
  simp only [decide_eq_decide]
  omega

/-- The bits of ENTRY_CHUNK (R50). -/
theorem chunk_getLsbD (e : Entry) (k : BitVec 4) (j : Nat) :
    (e.chunk k).getLsbD j =
      (decide (j < 16) && (decide (16 * k.toNat + j < e.len.toNat) && e.cell (16 * k.toNat + j))) := by
  simp only [Entry.chunk, BitVec.getLsbD_setWidth, BitVec.getLsbD_extractLsb', visible_getLsbD]
  by_cases h : j < 16
  · have h2 : j < 32 := by omega
    simp [h, h2]
  · simp [h]

end Sys2Proof.Machine
end

