-- ==== Sys2Proof/Laws/Exec.lean ====
section
/-! SUPPORT. What the meanings do, said once: every command goes on, what each may change, and what none of them touches. -/

namespace Sys2Proof.Machine

/-- The state a command leads to (R16: every command has an effect). -/
def resultOf : Instr → State → State
  | .nop, s => s
  | .tblClear, s => tableGuard State.clearLens s
  | .tblLen sym len, s => tableGuard (fun s => s.setEntry sym (Entry.ofLen len)) s
  | .tblBits k sym data, s => tableGuard (fun s => s.setEntry sym ((s.entry sym).withChunk k data)) s
  | .enc sym, s =>
      if s.mode = .error then discard s
      else if (s.entry sym).len = 0#8 then raiseError (.snf sym) s
      else encodeSymbol sym s
  | .flush, s => (s.emit [.endMark (s.mode == .error)]).setMode .idle
  | .clrStatus, s => clearStatus s

theorem exec_eq_next (i : Instr) (s : State) : exec i s = .next (resultOf i s) := by
  cases i
  case enc sym => simp only [exec, execEnc, resultOf]; split <;> [rfl; split <;> rfl]
  all_goals rfl

theorem execIllegal_eq_next (s : State) : execIllegal s = .next (raiseError .ill s) := rfl

/-- The three ways a table command ends (R240). -/
theorem tableGuard_cases (effect : State → State) (s : State) :
    (s.mode = .error ∧ tableGuard effect s = discard s) ∨
    (s.mode = .stream ∧ tableGuard effect s = raiseError .tbl s) ∨
    (s.mode = .idle ∧ tableGuard effect s = effect s) := by
  unfold tableGuard
  cases h : s.mode <;> simp

/-- The three ways ENC ends (R270). -/
theorem enc_cases (sym : Symbol) (s : State) :
    (s.mode = .error ∧ resultOf (.enc sym) s = discard s) ∨
    (s.mode ≠ .error ∧ (s.entry sym).len = 0#8 ∧ resultOf (.enc sym) s = raiseError (.snf sym) s) ∨
    (s.mode ≠ .error ∧ (s.entry sym).len ≠ 0#8 ∧ resultOf (.enc sym) s = encodeSymbol sym s) := by
  by_cases hm : s.mode = .error <;> by_cases hl : (s.entry sym).len = 0#8 <;> simp [resultOf, hm, hl]

/-- Everything a command can do to a state, as one list of cases. -/
theorem resultOf_cases (i : Instr) (s : State) :
    (i = .nop ∧ resultOf i s = s) ∨
    (i = .clrStatus ∧ resultOf i s = clearStatus s) ∨
    (i = .flush ∧ resultOf i s = (s.emit [.endMark (s.mode == .error)]).setMode .idle) ∨
    (s.mode = .error ∧ resultOf i s = discard s) ∨
    (s.mode = .stream ∧ resultOf i s = raiseError .tbl s) ∨
    (∃ sym, i = .enc sym ∧ s.mode ≠ .error ∧ (s.entry sym).len = 0#8 ∧ resultOf i s = raiseError (.snf sym) s) ∨
    (∃ sym, i = .enc sym ∧ s.mode ≠ .error ∧ (s.entry sym).len ≠ 0#8 ∧ resultOf i s = encodeSymbol sym s) ∨
    (i = .tblClear ∧ s.mode = .idle ∧ resultOf i s = s.clearLens) ∨
    (∃ sym e, s.mode = .idle ∧ (i.mnemonic = .tblLen ∨ i.mnemonic = .tblBits) ∧ resultOf i s = s.setEntry sym e) := by
  cases i with
  | nop => simp [resultOf]
  | clrStatus => simp [resultOf]
  | flush => simp [resultOf]
  | tblClear => obtain h | h | h := tableGuard_cases State.clearLens s <;> simp [resultOf, h]
  | tblLen sym len =>
    obtain h | h | h := tableGuard_cases (fun s => s.setEntry sym (Entry.ofLen len)) s
    · simp [resultOf, h]
    · simp [resultOf, h]
    · refine .inr (.inr (.inr (.inr (.inr (.inr (.inr (.inr ⟨sym, Entry.ofLen len, h.1, ?_, h.2⟩)))))))
      exact .inl rfl
  | tblBits k sym data =>
    obtain h | h | h := tableGuard_cases (fun s => s.setEntry sym ((s.entry sym).withChunk k data)) s
    · simp [resultOf, h]
    · simp [resultOf, h]
    · refine .inr (.inr (.inr (.inr (.inr (.inr (.inr (.inr ⟨sym, _, h.1, ?_, h.2⟩)))))))
      exact .inr rfl
  | enc sym =>
    obtain h | h | h := enc_cases sym s
    · simp [h]
    · refine .inr (.inr (.inr (.inr (.inr (.inl ⟨sym, rfl, h⟩)))))
    · refine .inr (.inr (.inr (.inr (.inr (.inr (.inl ⟨sym, rfl, h⟩))))))

/-- No command touches the environment (R15, R300): not the host's list, the script, the delivered items or the draws. -/
theorem resultOf_env (i : Instr) (s : State) :
    (resultOf i s).cmds = s.cmds ∧ (resultOf i s).env = s.env ∧ (resultOf i s).out = s.out ∧
      (resultOf i s).earlier = s.earlier ∧ (resultOf i s).draws = s.draws := by
  obtain ⟨-, h⟩ | ⟨-, h⟩ | ⟨-, h⟩ | ⟨-, h⟩ | ⟨-, h⟩ | ⟨_, -, -, -, h⟩ | ⟨_, -, -, -, h⟩ | ⟨-, -, h⟩ | ⟨_, _, -, -, h⟩ :=
    resultOf_cases i s <;> simp [h]

end Sys2Proof.Machine
end

