-- ==== Sys2Proof/Laws/Cycle.lean ====
section
/-! SUPPORT. One cycle, said once: the events that can happen in it and the state each leads to (R72, R73, R300, R450). -/

namespace Sys2Proof.Machine

@[simp] theorem cmdTransfers_advance (p : PinsIn) (s : State) : cmdTransfers p s.advance = cmdTransfers p s := (rfl)
@[simp] theorem itemTransfers_advance (p : PinsIn) (s : State) : itemTransfers p s.advance = itemTransfers p s := (rfl)
@[simp] theorem serBusy_advance (s : State) : s.advance.serBusy = s.serBusy := (rfl)

/-- A command transfers exactly when it is offered, the queue is empty and reset is not asserted (R72). -/
theorem cmdTransfers_iff (p : PinsIn) (s : State) :
    cmdTransfers p s = true ↔ p.cmdValid = true ∧ s.ser = [] ∧ p.rst = false := by
  simp [cmdTransfers, cmdReady, List.isEmpty_iff]

/-- An item transfers exactly when there is one, the consumer is ready and reset is not asserted (R73). -/
theorem itemTransfers_iff (p : PinsIn) (s : State) :
    itemTransfers p s = true ↔ s.ser ≠ [] ∧ p.rst = false ∧ p.outReady = true := by
  simp [itemTransfers, outValid, and_assoc]

/-- The state an accepted word leads to. -/
def wordResult (w : Word) (s : State) : State :=
  match decode w with
  | .instr i => resultOf i s
  | .illegal _ => raiseError .ill s

theorem execWord_eq_next (w : Word) (s : State) : execWord w s = .next (wordResult w s) := by
  cases hd : decode w with
  | instr i => simp only [execWord, wordResult, hd, exec_eq_next]
  | illegal r => simp only [execWord, wordResult, hd, execIllegal_eq_next]

/-- Everything a step can do: reset, a legal command, an illegal word, an item delivered, or nothing. -/
theorem step_cases {s t : State} (h : step s = .next t) :
    (s.pins.rst = true ∧ t = resetBlock s.advance) ∨
    (∃ i, cmdTransfers s.pins s = true ∧ decode s.pins.cmdData = .instr i ∧ t = resultOf i s.advance) ∨
    (∃ r, cmdTransfers s.pins s = true ∧ decode s.pins.cmdData = .illegal r ∧ t = raiseError .ill s.advance) ∨
    (itemTransfers s.pins s = true ∧ t = serializerStep s.advance) ∨
    (s.pins.rst = false ∧ cmdTransfers s.pins s = false ∧ itemTransfers s.pins s = false ∧ t = s.advance) := by
  simp only [step, cycleStep, clockEdge, cmdTransfers_advance, itemTransfers_advance] at h
  by_cases hr : s.pins.rst = true
  · rw [if_pos hr, Host.Outcome.next.injEq] at h
    exact .inl ⟨hr, h.symm⟩
  rw [if_neg hr] at h
  by_cases hc : cmdTransfers s.pins s = true
  · rw [if_pos hc, execWord_eq_next, Host.Outcome.next.injEq] at h
    cases hd : decode s.pins.cmdData with
    | instr i => exact .inr (.inl ⟨i, hc, rfl, by simp [← h, wordResult, hd]⟩)
    | illegal r => exact .inr (.inr (.inl ⟨r, hc, rfl, by simp [← h, wordResult, hd]⟩))
  rw [if_neg hc] at h
  by_cases hi : itemTransfers s.pins s = true
  · rw [if_pos hi, Host.Outcome.next.injEq] at h
    exact .inr (.inr (.inr (.inl ⟨hi, h.symm⟩)))
  · rw [if_neg hi, Host.Outcome.next.injEq] at h
    exact .inr (.inr (.inr (.inr ⟨by simpa using hr, by simpa using hc, by simpa using hi, h.symm⟩)))

end Sys2Proof.Machine
end

