-- ==== Sys2Proof/Laws/Decode.lean ====
section
/-! SUPPORT. The fields of a word as numbers (R101–R106), the bits of a placed field (R9), and the cases of the decoder
(R108). -/

namespace Sys2Proof

/-! ### Fields as numbers -/

theorem opField_toNat (w : Word) : (opField w).toNat = w.toNat / 2 ^ 28 := by
  have := w.isLt
  simp [opField, Nat.shiftRight_eq_div_pow]
  omega

theorem kField_toNat (w : Word) : (kField w).toNat = w.toNat / 2 ^ 24 % 2 ^ 4 := by
  simp [kField, Nat.shiftRight_eq_div_pow]

theorem symField_toNat (w : Word) : (symField w).toNat = w.toNat / 2 ^ 16 % 2 ^ 8 := by
  simp [symField, Nat.shiftRight_eq_div_pow]

theorem midField_toNat (w : Word) : (midField w).toNat = w.toNat / 2 ^ 8 % 2 ^ 8 := by
  simp [midField, Nat.shiftRight_eq_div_pow]

theorem lenField_toNat (w : Word) : (lenField w).toNat = w.toNat % 2 ^ 8 := by
  simp [lenField]

theorem dataField_toNat (w : Word) : (dataField w).toNat = w.toNat % 2 ^ 16 := by
  simp [dataField]

theorem restField_toNat (w : Word) : (restField w).toNat = w.toNat % 2 ^ 28 := by
  simp [restField]

/-! ### Placed fields -/

/-- The bits of a placed field: the field's own bits from `lo` on, and 0 elsewhere. -/
theorem getLsbD_place {n : Nat} (lo : Nat) (f : BitVec n) (i : Nat) :
    (place lo f).getLsbD i = (decide (i < 32) && (decide (lo ≤ i) && f.getLsbD (i - lo))) := by
  simp only [place, BitVec.getLsbD_shiftLeft, BitVec.getLsbD_setWidth]
  by_cases h : i < 32 <;> by_cases h' : i < lo
  · have : ¬ lo ≤ i := by omega
    simp [h, h', this]
  · have h2 : lo ≤ i := by omega
    have h3 : i - lo < 32 := by omega
    simp [h, h2, h3, h']
  · simp [h]
  · simp [h]

@[simp] theorem getElem_place {n : Nat} (lo : Nat) (f : BitVec n) (i : Nat) (h : i < 32) :
    (place lo f)[i] = (decide (lo ≤ i) && f.getLsbD (i - lo)) := by
  rw [← BitVec.getLsbD_eq_getElem, getLsbD_place]
  simp [h]

/-- The union of two placed fields that do not meet is a sum: the lower one ends at or below the higher one's start. -/
theorem or_toNat_of_lt {a b : Word} {k : Nat} (hb : b.toNat < 2 ^ k) (ha : a.toNat % 2 ^ k = 0) :
    (a ||| b).toNat = a.toNat + b.toNat := by
  have hd := Nat.div_add_mod a.toNat (2 ^ k)
  rw [ha, Nat.add_zero] at hd
  rw [BitVec.toNat_or, ← hd, Nat.two_pow_add_eq_or_of_lt hb]

/-! ### The decoder's cases -/

/-- Every way the decoder can answer with a command (R108). -/
theorem decode_eq_instr {w : Word} {i : Instr} (h : decode w = .instr i) :
    (i = .nop ∧ opField w = 0x0#4 ∧ restField w = 0#28) ∨
    (i = .tblClear ∧ opField w = 0x1#4 ∧ restField w = 0#28) ∨
    (i = .tblLen (symField w) (lenField w) ∧ opField w = 0x2#4 ∧ kField w = 0#4 ∧ midField w = 0#8) ∨
    (i = .tblBits (kField w) (symField w) (dataField w) ∧ opField w = 0x3#4) ∨
    (i = .enc (symField w) ∧ opField w = 0x4#4 ∧ kField w = 0#4 ∧ dataField w = 0#16) ∨
    (i = .flush ∧ opField w = 0x5#4 ∧ restField w = 0#28) ∨
    (i = .clrStatus ∧ opField w = 0x6#4 ∧ restField w = 0#28) := by
  unfold decode decodeF0 decodeFL decodeFB decodeFS at h
  repeat' split at h
  all_goals first
    | (exfalso; cases h; done)
    | (simp only [Decoded.instr.injEq] at h; subst h; simp_all)

end Sys2Proof
end

