-- ==== Sys2Proof/Laws/PerInstr.lean ====
section
/-! SUPPORT. Statements made for every constructor of `Instr`: the encoded word of a command selects the row of its own
mnemonic in the opcode map (R107). -/

namespace Sys2Proof.Laws.EncodeSelectsRow

/-- The encoded word of `i` selects a row of the opcode map that has its mnemonic. -/
def Statement (i : Instr) : Prop := ∃ r ∈ opcodeRows, r.mnemonic = i.mnemonic ∧ r.selects (encode i) = true

theorem nop : Statement .nop := ⟨⟨.nop, 0x00000000, 0xFFFFFFFF⟩, by decide, rfl, by decide⟩

theorem tblClear : Statement .tblClear := ⟨⟨.tblClear, 0x10000000, 0xFFFFFFFF⟩, by decide, rfl, by decide⟩

theorem tblLen (sym : Symbol) (len : BitVec 8) : Statement (.tblLen sym len) := by
  refine ⟨⟨.tblLen, 0x20000000, 0xFF00FF00⟩, by decide, rfl, ?_⟩
  simp only [OpcodeRow.selects, encode, beq_iff_eq]
  ext i hi
  interval_cases i <;> simp [place]

theorem tblBits (k : BitVec 4) (sym : Symbol) (data : BitVec 16) : Statement (.tblBits k sym data) := by
  refine ⟨⟨.tblBits, 0x30000000, 0xF0000000⟩, by decide, rfl, ?_⟩
  simp only [OpcodeRow.selects, encode, beq_iff_eq]
  ext i hi
  interval_cases i <;> simp [place]

theorem enc (sym : Symbol) : Statement (.enc sym) := by
  refine ⟨⟨.enc, 0x40000000, 0xFF00FFFF⟩, by decide, rfl, ?_⟩
  simp only [OpcodeRow.selects, encode, beq_iff_eq]
  ext i hi
  interval_cases i <;> simp [place]

theorem flush : Statement .flush := ⟨⟨.flush, 0x50000000, 0xFFFFFFFF⟩, by decide, rfl, by decide⟩

theorem clrStatus : Statement .clrStatus := ⟨⟨.clrStatus, 0x60000000, 0xFFFFFFFF⟩, by decide, rfl, by decide⟩

end Sys2Proof.Laws.EncodeSelectsRow
end

