-- ==== Sys2Proof/Laws/Run.lean ====
section
/-! SUPPORT. Runs, said once: how a run begins, what the environment is after a step, and what it means that a step executes
a command. -/

namespace Sys2Proof.Machine

/-- A step executes a command exactly when a word transfers and decodes to it. -/
theorem executes_iff (s : State) (i : Instr) :
    s.executes i ↔ cmdTransfers s.pins s = true ∧ decode s.pins.cmdData = .instr i := by
  unfold State.executes State.wordTransferring
  by_cases h : cmdTransfers s.pins s = true <;> simp [h]

/-- A step accepts an illegal word exactly when a word transfers and the decoder rejects it. -/
theorem acceptsIllegal_iff (s : State) :
    s.acceptsIllegal ↔ cmdTransfers s.pins s = true ∧ illegalWord s.pins.cmdData := by
  unfold State.acceptsIllegal State.wordTransferring
  by_cases h : cmdTransfers s.pins s = true <;> simp [h]

theorem runSteps_zero (s : State) : runSteps 0 s = .next s := rfl

/-- A run of one step more begins with that step. -/
theorem runSteps_succ {s t : State} (n : Nat) (h : step s = .next t) : runSteps (n + 1) s = runSteps n t := by
  have h' : Sys2Proof.core.step s = .next t := h
  show Host.Core.run Sys2Proof.core (n + 1) s = Host.Core.run Sys2Proof.core n t
  simp only [Host.Core.run, h']

theorem wordsTransferred_succ {s t : State} (n : Nat) (h : step s = .next t) :
    wordsTransferred (n + 1) s = s.wordTransferring.toList ++ wordsTransferred n t := by
  simp only [wordsTransferred, h]

/-- The environment's script after a step: one entry is used up, whatever happened. -/
theorem step_env {s t : State} (h : step s = .next t) : t.env = s.env.tail := by
  obtain ⟨-, rfl⟩ | ⟨i, -, -, rfl⟩ | ⟨r, -, -, rfl⟩ | ⟨-, rfl⟩ | ⟨-, -, -, rfl⟩ := step_cases h <;>
    simp [(resultOf_env _ _).2.1]

/-- The host's list after a step: it loses its first word exactly when a word transferred. -/
theorem step_cmds {s t : State} (h : step s = .next t) : t.cmds = s.advance.cmds := by
  obtain ⟨-, rfl⟩ | ⟨i, -, -, rfl⟩ | ⟨r, -, -, rfl⟩ | ⟨-, rfl⟩ | ⟨-, -, -, rfl⟩ := step_cases h <;>
    simp [(resultOf_env _ _).1]

/-- The current cycle's environment is entry 0 of the script. -/
theorem envNow_eq_envAt (s : State) : s.envNow = s.envAt 0 := by
  cases h : s.env <;> simp [State.envNow, State.envAt, h]

end Sys2Proof.Machine

namespace Sys2Proof.Ref

/-- Splitting items in two parts: what the first part leaves open goes on into the second (R272). -/
theorem splitLoop_append (bits : BitString) (a b : List Machine.Item) :
    splitLoop bits (a ++ b) =
      ((splitLoop bits a).1 ++ (splitLoop (splitLoop bits a).2 b).1, (splitLoop (splitLoop bits a).2 b).2) := by
  induction a generalizing bits with
  | nil => simp [splitLoop]
  | cons item rest ih => cases item <;> simp [splitLoop, ih]

end Sys2Proof.Ref
end

