-- ==== Sys2Proof/Tests/Slice0.lean ====
section
/-! SUPPORT. The model's own tests. Expected results are the spec's vectors (95_test_vectors.md, named in each comment) or
hand calculation from the rule named. The witness theorems show states and operands that meet the hypotheses of the
statements, clause by clause. -/

-- The theorems below are checked one after the other: each kernel evaluation that waits in a thread of its own reserves
-- memory of its own.
set_option Elab.async false

namespace Sys2Proof.Tests

open Sys2Proof Sys2Proof.Machine

/-! ### Helpers -/

/-- The state an outcome holds, or the reset state where it holds none. -/
def after (o : Host.Outcome State Fault Refusal) : State :=
  match o with
  | .next t => t
  | _ => State.reset

/-- Whether an outcome is a next state. -/
def isNext (o : Host.Outcome State Fault Refusal) : Bool :=
  match o with
  | .next _ => true
  | _ => false

theorem exists_of_isNext {o : Host.Outcome State Fault Refusal} (h : isNext o = true) : ∃ t, o = .next t := by
  cases o with
  | next t => exact ⟨t, rfl⟩
  | fault r => cases r
  | refused r => simp [isNext] at h

/-- Table T1 of the vectors, loaded: a "0", b "10", c "110", d "111". -/
def withT1 : State :=
  (((State.reset.setEntry 0x61#8 ⟨1#8, 0#256⟩).setEntry 0x62#8 ⟨2#8, 1#256⟩).setEntry 0x63#8 ⟨3#8, 3#256⟩).setEntry
    0x64#8 ⟨3#8, 7#256⟩

/-- T1 loaded, mode STREAM. -/
def inStream : State := { withT1 with mode := .stream }

/-- T1 loaded, mode ERROR. -/
def inError : State := { withT1 with mode := .error }

/-- A block whose only valid entry is a "0", and the host-side table that says so. -/
def oneCode : State := State.reset.setEntry 0x61#8 ⟨1#8, 0#256⟩

/-- The table {a: "0"}. -/
def oneTable : Ref.CodeTable := [(0x61#8, [false])]

/-- An environment cycle with reset asserted. -/
def resetCycle : EnvCycle := ⟨true, true, true, 0#16⟩

/-- An environment cycle whose consumer is not ready. -/
def stallCycle : EnvCycle := ⟨false, true, false, 0#16⟩

/-- Input ports with a word offered and the consumer ready. -/
def offering (w : Word) : PinsIn := ⟨false, true, w, true, 0#16⟩

/-! ### Decoding: words written out from the formats (R102–R105) -/

theorem test_decode_nop : decode 0b0000_0000000000000000000000000000#32 = .instr .nop := by decide
theorem test_decode_tblClear : decode 0b0001_0000000000000000000000000000#32 = .instr .tblClear := by decide
/-- OP 2, reserved 0, SYM 0x63, reserved 0, LEN 3. -/
theorem test_decode_tblLen :
    decode 0b0010_0000_01100011_00000000_00000011#32 = .instr (.tblLen 0x63#8 3#8) := by decide
/-- OP 3, K 5, SYM 0x81, DATA 0x8001. -/
theorem test_decode_tblBits :
    decode 0b0011_0101_10000001_1000000000000001#32 = .instr (.tblBits 5#4 0x81#8 0x8001#16) := by decide
/-- OP 4, reserved 0, SYM 0x61, reserved 0. -/
theorem test_decode_enc : decode 0b0100_0000_01100001_0000000000000000#32 = .instr (.enc 0x61#8) := by decide
theorem test_decode_flush : decode 0b0101_0000000000000000000000000000#32 = .instr .flush := by decide
theorem test_decode_clrStatus : decode 0b0110_0000000000000000000000000000#32 = .instr .clrStatus := by decide

/-- V-CTL5, V-CTL7, V-CTL8, V-TBL10, V-TBL11, V-TBL13, V-ENC5, V-FL4: illegal words. -/
theorem test_decode_illegal :
    ([0x70000000#32, 0x80000000#32, 0xF0000000#32, 0xFFFFFFFF#32, 0x00000001#32, 0x60000100#32, 0x21610001#32,
      0x20610101#32, 0x10000001#32, 0x40610001#32, 0x50000001#32].map (fun w => (decode w).instr?)).all (· == none) =
      true := by decide

/-- R111's words, from the syntax table. -/
theorem test_encode_words :
    encode (.tblLen 0x63#8 3#8) = 0x20630003#32 ∧ encode (.tblBits 15#4 0xFF#8 0xFFFF#16) = 0x3FFFFFFF#32 ∧
    encode (.enc 0x62#8) = 0x40620000#32 ∧ encode .clrStatus = 0x60000000#32 := by decide

theorem test_decodeTableWord :
    decodeTableWord 32 0x40000000 = some (.enc 0#8) ∧ decodeTableWord 32 0x70000000 = none := by decide

/-- The same word in the two byte orders (R75). -/
theorem test_decodeBytes :
    decodeBytes .big [0x20#8, 0x63#8, 0x00#8, 0x03#8, 9#8] = some (.instr (.tblLen 0x63#8 3#8), [9#8]) ∧
    decodeBytes .little [0x03#8, 0x00#8, 0x63#8, 0x20#8] = some (.instr (.tblLen 0x63#8 3#8), []) ∧
    decodeBytes .big [0x20#8, 0x63#8, 0x00#8] = none := by decide

/-! ### Well-formedness: one ill-formed term for each check -/

theorem smoke_symInRange : AsmCmd.wellFormed (.enc 256) = false ∧ AsmCmd.wellFormed (.enc 255) = true := by decide
theorem smoke_lenInRange :
    AsmCmd.wellFormed (.tblLen 0 256) = false ∧ AsmCmd.wellFormed (.tblLen 0 255) = true := by decide
theorem smoke_chunkInRange :
    AsmCmd.wellFormed (.tblBits 0 16 0) = false ∧ AsmCmd.wellFormed (.tblBits 0 15 0) = true := by decide
theorem smoke_dataInRange :
    AsmCmd.wellFormed (.tblBits 0 0 65536) = false ∧ AsmCmd.wellFormed (.tblBits 0 0 65535) = true := by decide
theorem smoke_codeInRange :
    AsmCmd.wellFormed (.tblLoad 0 []) = false ∧ AsmCmd.wellFormed (.tblLoad 0 [true]) = true ∧
    codeInRange (List.replicate 256 true) = false ∧ codeInRange (List.replicate 255 true) = true := by
  decide +kernel
theorem smoke_loadall_distinct :
    AsmCmd.wellFormed (.tblLoadall [(1, [true]), (1, [false])]) = false ∧
    AsmCmd.wellFormed (.tblLoadall [(1, [true]), (2, [false])]) = true := by decide
theorem smoke_no_word : Asm.assemble (.enc 256) = none := by decide

/-- The relations between the parameters that R6 states in its table, and the types that follow them. -/
theorem test_parameters :
    Config.nsym = 2 ^ Config.symW ∧ Config.maxLen = Config.nsym - 1 ∧
    Config.nchunk = Config.storeW / Config.chunkW ∧ Ref.allSymbols.length = Config.nsym ∧
    2 ^ Config.lenW - 1 = Config.maxLen := by decide +kernel

/-! ### Commands: one step on a small state -/

/-- V-CTL2: NOP in mode ERROR is not discarded and does not count. -/
theorem test_nop_in_error :
    (after (exec .nop inError)).dropCount = 0#32 ∧ (after (exec .nop inError)).mode = .error := by decide +kernel

/-- V-TBL9. -/
theorem test_tblClear :
    (csrRead 0x0014#16 (after (exec .tblClear withT1))).rdata = 0#32 ∧
    (csrRead 0x0018#16 (after (exec .tblClear withT1))).rdata = 0#32 := by decide +kernel

/-- V-TBL8. -/
theorem test_tblClear_discarded :
    (after (exec .tblClear inError)).dropCount = 1#32 ∧
    (csrRead 0x0014#16 (after (exec .tblClear inError))).rdata = 4#32 := by decide +kernel

/-- V-TBL1, V-TBL3: the length is set and old code bits are lost. -/
theorem test_tblLen :
    ((after (exec (.tblLen 0x63#8 3#8) withT1)).entry 0x63#8).code = [false, false, false] ∧
    (csrRead 0xB1C0#16 (after (exec (.tblLen 0x63#8 3#8) withT1))).rdata = 3#32 := by decide +kernel

/-- V-TBL7. -/
theorem test_tblLen_in_stream :
    (csrRead 0x0004#16 (after (exec (.tblLen 0x61#8 2#8) inStream))).rdata = 0x00000402#32 ∧
    ((after (exec (.tblLen 0x61#8 2#8) inStream)).entry 0x61#8).len = 1#8 := by decide +kernel

/-- V-TBL2. -/
theorem test_tblBits :
    ((after (exec (.tblBits 0#4 0x63#8 3#16) (after (exec (.tblLen 0x63#8 3#8) State.reset)))).entry 0x63#8).code =
      [true, true, false] := by decide +kernel

/-- V-TBL5: with LEN = 255 and the last chunk all ones, ENTRY_CHUNK(0, 15) at 0x803C reads 0x7FFF. -/
theorem test_tblBits_last_chunk :
    csrRead 0x803C#16 (after (exec (.tblBits 15#4 0#8 0xFFFF#16) (after (exec (.tblLen 0#8 255#8) State.reset)))) =
      ⟨0x00007FFF#32, false⟩ := by decide +kernel

/-- V-ENC1. -/
theorem test_enc_hit :
    (after (exec (.enc 0x62#8) withT1)).ser = [.bit true, .bit false] ∧
    (after (exec (.enc 0x62#8) withT1)).status = 0x00000005#32 ∧
    (after (exec (.enc 0x62#8) { withT1 with bitCount := 0xFFFFFFFF#32 })).bitCount = 1#32 := by decide +kernel

/-- V-ENC2, and V-ENC4's second miss, which does not overwrite ERR_SYM. -/
theorem test_enc_miss :
    (after (exec (.enc 0x65#8) withT1)).status = 0x00650102#32 ∧
    (after (exec (.enc 0x66#8) { withT1 with errSnf := true, errSym := 0x65#8 })).status = 0x00650102#32 := by
  decide +kernel

/-- V-FL1, V-FL2. -/
theorem test_flush :
    (after (exec .flush State.reset)).ser = [.endMark false] ∧
    (after (exec .flush inError)).ser = [.endMark true] ∧ (after (exec .flush inError)).mode = .idle := by decide +kernel

/-- V-CTL3. -/
theorem test_clrStatus :
    let s := { withT1 with errSnf := true, errSym := 0x65#8, symCount := 7#32, dropCount := 2#32 }
    s.status = 0x00650100#32 ∧ (after (exec .clrStatus s)).status = 0#32 ∧
    (after (exec .clrStatus s)).symCount = 0#32 ∧ (after (exec .clrStatus s)).errIrq = false := by decide +kernel

/-- V-FL3: CLR_STATUS in mode ERROR leaves the mode. -/
theorem test_clrStatus_in_error : (after (exec .clrStatus inError)).status = 0x00000002#32 := by decide +kernel

/-- V-CTL4, V-PRI1, V-CTL6. -/
theorem test_illegal :
    (after (execWord 0x70000000#32 State.reset)).status = 0x00000202#32 ∧
    (after (execWord 0x40650001#32 withT1)).status = 0x00000202#32 ∧
    (after (execWord 0x70000000#32 inError)).dropCount = 0#32 := by decide +kernel

/-! ### Cycles -/

/-- V-SER1 in its first cycle: the consumer gets the head bit, and the host's next word waits. -/
theorem test_step_serializer :
    let s := { withT1 with ser := [.bit true, .bit true, .bit false], cmds := [0x50000000#32] }
    (after (step s)).out = [.bit true] ∧ (after (step s)).ser = [.bit true, .bit false] ∧
    (after (step s)).cmds = [0x50000000#32] := by decide +kernel

/-- V-SER2: a stalled item and the ports that show it. -/
theorem test_step_stalled :
    let s := { withT1 with ser := [.bit true], env := [stallCycle], cmds := [0#32] }
    (after (step s)).ser = [.bit true] ∧ (outputs s.pins s).outValid = true ∧ (outputs s.pins s).outData = true ∧
    (outputs s.pins s).cmdReady = false := by decide +kernel

/-- V-SER4: reset drops what is pending. -/
theorem test_step_reset :
    let s := { withT1 with ser := [.bit true], env := [resetCycle], mode := .stream }
    (after (step s)).ser = [] ∧ (after (step s)).out = [] ∧ (after (step s)).mode = .idle ∧
    ((after (step s)).entry 0x61#8).len = 0#8 := by decide +kernel

/-- V-ENC9 as the first step after reset, the word placed for the fetch. -/
theorem test_step_fetched_word :
    (after (step (State.reset.withFetchWord 32 0x40410000))).status = 0x00410102#32 := by decide +kernel

/-! ### Register port (V-CSR1, V-CSR6 to V-CSR15) -/

theorem test_csr :
    csrRead 0x0000#16 withT1 = ⟨0x0110FF08#32, false⟩ ∧ csrRead 0x0014#16 withT1 = ⟨4#32, false⟩ ∧
    csrRead 0x0018#16 withT1 = ⟨9#32, false⟩ ∧ csrRead 0xB1C0#16 withT1 = ⟨3#32, false⟩ ∧
    csrRead 0xB180#16 withT1 = ⟨3#32, false⟩ ∧ csrRead 0xB184#16 withT1 = ⟨0#32, false⟩ ∧
    csrRead 0xB2C0#16 withT1 = ⟨0#32, false⟩ ∧ csrRead 0xB1C4#16 withT1 = ⟨0#32, true⟩ ∧
    csrRead 0x0002#16 withT1 = ⟨0#32, true⟩ ∧ csrRead 0x001C#16 withT1 = ⟨0#32, true⟩ ∧
    csrRead 0xFFC0#16 withT1 = ⟨0#32, false⟩ := by decide +kernel

/-! ### Reference functions -/

/-- The symbols of "abacabad". -/
def abacabad : List Symbol := [0x61, 0x62, 0x61, 0x63, 0x61, 0x62, 0x61, 0x64]

/-- The table T1. -/
def tableT1 : Ref.CodeTable :=
  [(0x61#8, [false]), (0x62#8, [true, false]), (0x63#8, [true, true, false]), (0x64#8, [true, true, true])]

/-- W1, W4. -/
theorem test_frequencies :
    Ref.frequencies abacabad = [(0x61#8, 4), (0x62#8, 2), (0x63#8, 1), (0x64#8, 1)] ∧
    Ref.buildTree (Ref.frequencies []) = .error .emptyInput := by decide +kernel

/-- V-TR1, V-TR6. -/
theorem test_codeTable :
    Ref.codeTableOf abacabad = .ok tableT1 ∧ Ref.codeTableOf [0x61, 0x61] = .ok [(0x61#8, [true])] := by
  decide +kernel

/-- V-TR5: an internal node wins a weight tie by its representative. -/
theorem test_codeTable_tie :
    Ref.codeTableOf [0x61, 0x62, 0x63, 0x64, 0x64] =
      .ok [(0x64#8, [false]), (0x63#8, [true, false]), (0x61#8, [true, true, false]),
           (0x62#8, [true, true, true])] := by decide +kernel

/-- V-TR7: the Fibonacci frequencies. -/
theorem test_buildTree_deepest :
    ((Ref.buildTree [(0, 1), (1, 1), (2, 2), (3, 3), (4, 5), (5, 8), (6, 13), (7, 21)]).toOption.map
      (fun t => (Ref.assignCodes t).lookup 1)) = some (some [true, true, true, true, true, false, true]) := by
  decide +kernel

/-- R211: a leaf with a child, and an internal node with one child, are malformed. -/
theorem test_malformed :
    Ref.assignCodesRaw (.leaf 1 [.leaf 2 []]) = .error .malformedTree ∧
    Ref.assignCodesRaw (.internal [.leaf 1 []]) = .error .malformedTree ∧
    Ref.assignCodesRaw (.internal [.leaf 1 [], .leaf 2 []]) = .ok [(1, [false]), (2, [true])] := by decide +kernel

/-- V-DEC1, V-DEC2, V-DEC4, V-DEC7. -/
theorem test_decode_streams :
    Ref.encode tableT1 abacabad =
      .ok [false, true, false, false, true, true, false, false, true, false, false, true, true, true] ∧
    Ref.decode [false, true, false, false, true, true, false, false, true, false, false, true, true, true] tableT1 =
      .ok abacabad ∧
    Ref.decode [false, true, false, false, true, true, false, false, true, false, false, true, true] tableT1 =
      .error .truncatedStream ∧
    Ref.decode [true, false] [(0x61#8, [true])] = .error .truncatedStream := by decide +kernel

/-- I10, R344. -/
theorem test_decode_refused :
    Ref.decode [true] [(1, [true]), (2, [true])] = .error .duplicateCodes ∧
    Ref.decodeTree [true] (.leaf 1) = .error .singleLeafTraversal ∧
    Ref.decodeTree [true, false] (.internal (.leaf 1) (.leaf 2)) = .ok [2, 1] := by decide +kernel

/-- V-SZ1, V-SZ4. -/
theorem test_sizes :
    Ref.rawSize abacabad = 64 ∧ Ref.compressedSize abacabad tableT1 = 55 ∧
    Ref.compressedSize [0x61, 0x62] [(0x61#8, [false]), (0x62#8, [true])] = 20 := by decide +kernel

/-- P3's output items split as R272 and R345 say. -/
theorem test_streams :
    Ref.splitStreams [.bit false, .bit true, .bit false, .endMark true, .bit false, .endMark false, .bit true] =
      ([⟨[false, true, false], true⟩, ⟨[false], false⟩], [true]) ∧
    Ref.decodeStream ⟨[false], true⟩ tableT1 = none ∧
    Ref.decodeStream ⟨[false], false⟩ tableT1 = some (.ok [0x61]) := by decide +kernel

/-- R272 by hand: bits 01 taken, a reset, then bit 1 and `E0`. The stream after the reset holds the one bit. -/
theorem test_streams_reset :
    let s := { State.reset with out := [.bit false, .bit true], env := [resetCycle] }
    Ref.takenStreams s = ([], [false, true]) ∧ Ref.takenStreams (after (step s)) = ([], []) ∧
    Ref.takenStreams { after (step s) with out := [.bit true, .endMark false] } = ([⟨[true], false⟩], []) := by
  decide +kernel

/-! ### Assembler -/

/-- P1's words: `tbl.loadall T1` and `encode "abacabad"`. -/
theorem test_program_words :
    (Asm.hostSequence abacabad false false).map encode =
      [0x10000000#32, 0x20610001#32, 0x30610000#32, 0x20620002#32, 0x30620001#32, 0x20630003#32, 0x30630003#32,
       0x20640003#32, 0x30640007#32, 0x40610000#32, 0x40620000#32, 0x40610000#32, 0x40630000#32, 0x40610000#32,
       0x40620000#32, 0x40610000#32, 0x40640000#32, 0x50000000#32] := by decide +kernel

/-- R111's lines. -/
theorem test_source_lines :
    Asm.assembleLine "tbl.len 'c', 3 ; length".toList = some [0x20630003#32] ∧
    Asm.assembleLine "tbl.bits 'c', 0, 0x0003".toList = some [0x30630003#32] ∧
    Asm.assembleLine "enc 97".toList = some [0x40610000#32] ∧
    Asm.assembleLine "; only a comment".toList = some [] ∧
    Asm.assembleLine "enc 256".toList = none ∧
    Asm.assembleLine "ENC 1".toList = none ∧
    Asm.assembleLine "tbl.load 'b', \"10\"".toList = some [0x20620002#32, 0x30620001#32] ∧
    Asm.assembleLine "encode \"aa\"".toList = some [0x40610000#32, 0x40610000#32, 0x50000000#32] := by decide +kernel

/-! ### Witnesses: states and operands that meet the hypotheses of the statements, clause by clause -/

theorem witness_EncodeOfDecodeIsTheWord : decode 0x20630003#32 = .instr (.tblLen 0x63#8 3#8) := by decide

/-- One word of each kind of R109 at the edges of its fields, and the legal words beside them. -/
theorem witness_IllegalWordsAreTheTwoKinds :
    illegalWord 0x70000000#32 ∧ illegalWord 0xFFFFFFFF#32 ∧ illegalWord 0x08000000#32 ∧ illegalWord 0x21000000#32 ∧
    illegalWord 0x28FF00FF#32 ∧ illegalWord 0x20FF80FF#32 ∧ illegalWord 0x20000100#32 ∧ illegalWord 0x41000000#32 ∧
    illegalWord 0x40FF8000#32 ∧ illegalWord 0x68000000#32 ∧
    (decode 0x20FF00FF#32).instr? = some (.tblLen 0xFF#8 0xFF#8) ∧
    (decode 0x40FF0000#32).instr? = some (.enc 0xFF#8) := by
  refine ⟨⟨_, rfl⟩, ⟨_, rfl⟩, ⟨_, rfl⟩, ⟨_, rfl⟩, ⟨_, rfl⟩, ⟨_, rfl⟩, ⟨_, rfl⟩, ⟨_, rfl⟩, ⟨_, rfl⟩, ⟨_, rfl⟩, by decide,
    by decide⟩

theorem witness_OpcodeMapSelectsTheDecodedCommand :
    (opcodeRows.all fun r => !r.selects 0x70000000#32) = true ∧
    (opcodeRows.any fun r => r.selects 0x3FFFFFFF#32) = true := by decide

theorem witness_StepRunsTheTransferredCommand :
    let s := { State.reset with cmds := [0x50000000#32] }
    s.ser = [] ∧ s.envNow.rst = false ∧ s.envNow.offer = true ∧ s.cmds = 0x50000000#32 :: [] ∧
      decode 0x50000000#32 = .instr .flush := by decide

theorem witness_StepRunsTheFetchedWord : decodeTableWord 32 0x3FFFFFFF = some (.tblBits 15#4 0xFF#8 0xFFFF#16) := by
  decide

theorem witness_CommandHandshake :
    ((offering 0#32).cmdValid = true ∧ (outputs (offering 0#32) State.reset).cmdReady = true) ∧
    (∃ s t, step s = .next t ∧ s.pins.cmdValid = true ∧ (outputs s.pins s).cmdReady = true) ∧
    (∃ s t, step s = .next t ∧ ¬ (s.pins.cmdValid = true ∧ (outputs s.pins s).cmdReady = true)) ∧
    (∃ s t, (outputs (offering 0#32) s).cmdReady = false ∧ (offering 0#32).rst = false ∧
      clockEdge (offering 0#32) s = .next t) :=
  ⟨⟨rfl, rfl⟩, ⟨{ State.reset with cmds := [0#32] }, _, rfl, rfl, rfl⟩, ⟨State.reset, _, rfl, by decide⟩,
    ⟨{ State.reset with ser := [.bit true] }, _, rfl, rfl, rfl⟩⟩

theorem witness_OutputHandshake :
    (outputs (offering 0#32) { State.reset with ser := [.bit true] }).outValid = true ∧
    (outputs (offering 0#32) { State.reset with ser := [.endMark true] }).outValid = true ∧
    (offering 0#32).outReady = true ∧ (offering 0#32).rst = false := ⟨rfl, rfl, rfl, rfl⟩

theorem witness_SerializerMovesTheHeadItem :
    (∃ t, clockEdge (offering 0#32) State.reset = .next t ∧ State.reset.ser = []) ∧
    ({ State.reset with ser := [.bit true] }).ser = .bit true :: [] ∧ (offering 0#32).rst = false ∧
    (offering 0#32).outReady = true ∧ ({ offering 0#32 with outReady := false }).outReady = false :=
  ⟨⟨_, rfl, rfl⟩, rfl, rfl, rfl, rfl⟩

theorem witness_StalledItemIsHeld :
    let s := { State.reset with ser := [.bit true], env := [stallCycle, stallCycle] }
    s.ser ≠ [] ∧ s.pins.rst = false ∧ s.pins.outReady = false ∧ s.advance.pins.rst = false := by
  refine ⟨by simp, rfl, rfl, rfl⟩

theorem witness_ResetEdgeClearsTheBlock : ({ offering 0#32 with rst := true }).rst = true := rfl

theorem witness_ReadsAndLookupsAfterReset :
    (∃ t, clockEdge { offering 0#32 with rst := true } inStream = .next t) ∧ (offering 0#32).rst = false :=
  ⟨⟨_, rfl⟩, rfl⟩

theorem witness_NopChangesNothing :
    (0x08000000#32).toNat / 2 ^ 28 = 0 ∧ 0x08000000#32 ≠ 0x00000000#32 ∧
    ({ inError with cmds := [0x00000000#32] }).executes .nop :=
  ⟨by decide, by decide, ⟨0x00000000#32, rfl, by decide⟩⟩

theorem witness_TblClearInvalidatesEveryEntry :
    withT1.mode = .idle ∧ inStream.mode = .stream ∧ inError.mode = .error ∧
    (0x18000000#32).toNat / 2 ^ 28 = 1 ∧ 0x18000000#32 ≠ 0x10000000#32 := by decide

theorem witness_TblLenSetsLengthAndZeroesCells :
    withT1.mode = .idle ∧ inStream.mode = .stream ∧ inError.mode = .error ∧
    0x20FF00FF#32 &&& 0xFF00FF00#32 = 0x20000000#32 ∧ (0x20000100#32).toNat / 2 ^ 28 = 2 ∧
    (0x20000100#32).toNat / 2 ^ 8 % 2 ^ 8 ≠ 0 ∧ (0x28000000#32).toNat / 2 ^ 24 % 2 ^ 4 ≠ 0 := by decide

/-- The chunk edges: cell 15 and cell 16 beside chunk 0, cells 239 and 240 beside chunk 15. -/
theorem witness_TblBitsWritesSixteenCells :
    withT1.mode = .idle ∧ inStream.mode = .stream ∧ inError.mode = .error ∧
    0x3FFFFFFF#32 &&& 0xF0000000#32 = 0x30000000#32 ∧
    ((Entry.mk 255#8 0#256).withChunk 0#4 0xFFFF#16).cell 15 = true ∧
    ((Entry.mk 255#8 0#256).withChunk 0#4 0xFFFF#16).cell 16 = false ∧
    ((Entry.mk 255#8 0#256).withChunk 15#4 0xFFFF#16).cell 239 = false ∧
    ((Entry.mk 255#8 0#256).withChunk 15#4 0xFFFF#16).cell 240 = true ∧
    ((Entry.mk 255#8 0#256).withChunk 15#4 0xFFFF#16).cell 255 = true := by decide

theorem witness_EncLooksUpAndEmitsTheCode :
    inError.mode = .error ∧ inStream.mode ≠ .error ∧ (inStream.entry 0x65#8).len = 0#8 ∧
    (inStream.entry 0x62#8).len ≠ 0#8 ∧ 0x40FF0000#32 &&& 0xFF00FFFF#32 = 0x40000000#32 ∧
    (0x40008000#32).toNat / 2 ^ 28 = 4 ∧ (0x40008000#32).toNat % 2 ^ 16 ≠ 0 ∧
    (0x48000000#32).toNat / 2 ^ 24 % 2 ^ 4 ≠ 0 := by decide +kernel

theorem witness_FlushEndsTheStream :
    inError.mode = .error ∧ inStream.mode ≠ .error ∧ (0x50000001#32).toNat / 2 ^ 28 = 5 ∧
    0x50000001#32 ≠ 0x50000000#32 := by decide

theorem witness_ClrStatusClearsFlagsAndCounters :
    (∃ t, exec .clrStatus inError = .next t) ∧ inError.mode = .error ∧ (0x60000100#32).toNat / 2 ^ 28 = 6 ∧
    0x60000100#32 ≠ 0x60000000#32 := ⟨⟨_, rfl⟩, rfl, by decide, by decide⟩

theorem witness_IllegalWordFailsTheStream :
    (∀ r ∈ opcodeRows, r.selects 0x70000000#32 = false) ∧ ∃ t, execWord 0x70000000#32 withT1 = .next t :=
  ⟨by decide, ⟨_, rfl⟩⟩

theorem witness_RaiseErrorRecordsTheKind :
    withT1.errSnf = false ∧ ({ withT1 with errSnf := true }).errSnf = true := by decide

theorem witness_ErrorModeDiscardsTableAndEncCommands :
    inError.mode = .error ∧ isDiscardable .tblClear = true ∧ isDiscardable (.tblLen 0#8 0#8) = true ∧
    isDiscardable (.tblBits 0#4 0#8 0#16) = true ∧ isDiscardable (.enc 0#8) = true ∧ illegalWord 0x70000000#32 :=
  ⟨rfl, rfl, rfl, rfl, rfl, ⟨_, rfl⟩⟩

theorem witness_ChecksRunInPriorityOrder :
    illegalWord 0x40650001#32 ∧ decode 0x20610002#32 = .instr (.tblLen 0x61#8 2#8) ∧
    isDiscardable (.tblLen 0x61#8 2#8) = true ∧ inError.mode = .error ∧ inStream.mode = .stream ∧
    isTableCommand (.tblLen 0x61#8 2#8) = true ∧ decode 0x40650000#32 = .instr (.enc 0x65#8) ∧
    (inStream.entry 0x65#8).len = 0#8 ∧ ∃ t, execWord 0x40650000#32 inStream = .next t :=
  ⟨⟨_, rfl⟩, by decide, rfl, rfl, rfl, rfl, by decide, by decide +kernel, exists_of_isNext (by decide +kernel)⟩

/-- The edges of the unmapped ranges, and the last register before each. -/
theorem witness_RegisterMapReads :
    (offering 0#32).rst = false ∧
    csrRead 0x0018#16 withT1 = ⟨9#32, false⟩ ∧ csrRead 0x7FFC#16 withT1 = ⟨0#32, true⟩ ∧
    csrRead 0x8000#16 withT1 = ⟨0#32, false⟩ ∧ csrRead 0x8040#16 withT1 = ⟨0#32, false⟩ ∧
    csrRead 0x8044#16 withT1 = ⟨0#32, true⟩ ∧ csrRead 0x807C#16 withT1 = ⟨0#32, true⟩ ∧
    csrRead 0x8080#16 withT1 = ⟨0#32, false⟩ ∧ csrRead 0xFFFC#16 withT1 = ⟨0#32, true⟩ := by decide +kernel

theorem witness_BadReadsAnswerAnError :
    (csrRead 0x8041#16 withT1).rerr = true ∧ (csrRead 0x001C#16 withT1).rerr = true ∧
    (csrRead 0x8044#16 withT1).rerr = true ∧ (csrRead 0x803C#16 withT1).rerr = false := by decide +kernel

theorem witness_EntryChunkReadsBitsBelowLen :
    (withT1.entry 0x63#8).code.length = 3 ∧ 16 * (0#4).toNat + 2 < (withT1.entry 0x63#8).len.toNat ∧
    ¬ 16 * (0#4).toNat + 3 < (withT1.entry 0x63#8).len.toNat := by decide +kernel

theorem witness_ErrIrqIsTheOrOfTheFlags :
    let s := { State.reset with errIll := true, cmds := [0x60000000#32] }
    s.errIrq = true ∧ s.executes .clrStatus ∧ (after (step s)).errIrq = false ∧ isNext (step s) = true ∧
    ({ s with env := [resetCycle] }).pins.rst = true :=
  ⟨rfl, ⟨0x60000000#32, rfl, by decide⟩, rfl, rfl, rfl⟩

theorem witness_BlockInvariantIsKept :
    ({ State.reset with ser := [.bit true] }).Inv ∧ ∃ t, step { State.reset with ser := [.bit true] } = .next t :=
  ⟨⟨.inl ⟨[true], rfl, by decide⟩, fun _ => rfl⟩, ⟨_, rfl⟩⟩

/-- A step for each event that sets or clears a flag. -/
theorem witness_StickyFlagsAreSetAndClearedExactly :
    (∃ s t sym, step s = .next t ∧ s.missesOn sym) ∧ (∃ s t, step s = .next t ∧ s.acceptsIllegal) ∧
    (∃ s t i, step s = .next t ∧ isTableCommand i = true ∧ s.executes i ∧ s.mode = .stream) ∧
    (∃ s t, step s = .next t ∧ s.executes .clrStatus) :=
  ⟨⟨{ withT1 with cmds := [0x40650000#32] }, _, 0x65#8, (exists_of_isNext (by decide +kernel)).choose_spec,
      ⟨0x40650000#32, rfl, by decide⟩, by decide, by decide +kernel⟩,
    ⟨{ withT1 with cmds := [0x70000000#32] }, _, rfl, ⟨0x70000000#32, rfl, ⟨_, rfl⟩⟩⟩,
    ⟨{ inStream with cmds := [0x10000000#32] }, _, .tblClear, rfl, rfl, ⟨0x10000000#32, rfl, by decide⟩, rfl⟩,
    ⟨{ withT1 with cmds := [0x60000000#32] }, _, rfl, ⟨0x60000000#32, rfl, by decide⟩⟩⟩

theorem witness_ErrSymHoldsTheFirstMissingSymbol :
    ({ withT1 with cmds := [0x40650000#32] }).missesOn 0x65#8 ∧ withT1.errSnf = false ∧
    isNext (step { withT1 with cmds := [0x40650000#32] }) = true :=
  ⟨⟨⟨0x40650000#32, rfl, by decide⟩, by decide, by decide +kernel⟩, rfl, by decide +kernel⟩

theorem witness_CountersCountExactly :
    ({ withT1 with cmds := [0x40610000#32] }).hitsOn 0x61#8 ∧
    isNext (step { withT1 with cmds := [0x40610000#32] }) = true ∧
    ({ inError with cmds := [0x40610000#32] }).executes (.enc 0x61#8) ∧ isDiscardable (.enc 0x61#8) = true ∧
    inError.mode = .error ∧ isNext (step { inError with cmds := [0x40610000#32] }) = true :=
  ⟨⟨⟨0x40610000#32, rfl, by decide⟩, by decide, by decide +kernel⟩, by decide +kernel,
    ⟨0x40610000#32, rfl, by decide⟩, rfl, rfl, by decide +kernel⟩

theorem witness_OnlyTableCommandsInIdleChangeTheTable :
    let s := { State.reset with cmds := [0x20610001#32] }
    isNext (step s) = true ∧ ((after (step s)).entry 0x61#8).len ≠ (s.entry 0x61#8).len := by decide +kernel

/-- A step into STREAM, a step into ERROR, a step out of ERROR, and a step from STREAM to IDLE. -/
theorem witness_ModeMovesOnlyAsTheRulesSay :
    (after (step { withT1 with cmds := [0x40610000#32] })).mode = .stream ∧ withT1.mode ≠ .stream ∧
    (after (step { withT1 with cmds := [0x70000000#32] })).mode = .error ∧ withT1.mode ≠ .error ∧
    (after (step { inError with cmds := [0x50000000#32] })).mode = .idle ∧ inError.mode = .error ∧
    (after (step { inStream with cmds := [0x50000000#32] })).mode = .idle ∧ inStream.mode = .stream := by
  decide +kernel

/-- Two states that differ in a hidden cell: an entry of length 1 whose cell 5 differs. -/
theorem witness_HiddenCellsAreNeverObservable :
    sameButHidden (State.reset.setEntry 0x61#8 ⟨1#8, 0#256⟩) (State.reset.setEntry 0x61#8 ⟨1#8, 32#256⟩) ∧
    (Entry.mk 1#8 0#256).cell 5 ≠ (Entry.mk 1#8 32#256).cell 5 := by
  refine ⟨⟨fun x => ?_, rfl⟩, by decide⟩
  rw [entry_setEntry, entry_setEntry]
  split
  · exact ⟨rfl, by decide⟩
  · exact ⟨rfl, fun _ _ => rfl⟩

theorem noReset_of_quiet {s : State} (h : s.env = []) (n : Nat) : s.noReset n := by
  intro i _
  simp [State.envAt, h, EnvCycle.default]

/-- The host offers `enc 'a'` and `flush` to the one-code block. -/
def encRun : State := { oneCode with cmds := [0x40610000#32, 0x50000000#32] }

theorem witness_RunRefinesTheWordSequence :
    encRun.noReset 4 ∧ (∃ t, runSteps 4 encRun = .next t) ∧
    wordsTransferred 4 encRun = [0x40610000#32, 0x50000000#32] :=
  ⟨noReset_of_quiet rfl 4, exists_of_isNext (by decide +kernel), by decide +kernel⟩

theorem witness_ReadyConsumerDrainsTheQueue :
    let s := { State.reset with ser := [.bit true, .bit false] }
    s.noReset 2 ∧ s.ser.length ≤ s.readyCycles 2 := ⟨noReset_of_quiet rfl 2, by decide⟩

theorem witness_UnreadyConsumerStopsTheBlock :
    let s := { State.reset with ser := [.bit true], env := [stallCycle, stallCycle] }
    s.noReset 2 ∧ s.readyCycles 2 = 0 ∧ s.ser ≠ [] := by
  refine ⟨fun i hi => ?_, by decide, by simp⟩
  interval_cases i <;> rfl

/-- The shortest and the longest code. -/
theorem witness_LoadEntryGivesTheCode :
    1 ≤ [true].length ∧ [true].length ≤ 255 ∧ 1 ≤ (List.replicate 255 true).length ∧
    (List.replicate 255 true).length ≤ 255 ∧ withT1.mode = .idle := by
  refine ⟨by decide, by decide, ?_, ?_, rfl⟩ <;> rw [List.length_replicate]
  decide

theorem witness_LoadTableGivesTheTable : loadable tableT1 ∧ inStream.mode ≠ .idle ∧ withT1.mode = .idle := by
  refine ⟨⟨?_, ?_⟩, by decide, rfl⟩
  · unfold Ref.CodeTable.isMap
    decide
  · decide

theorem oneTable_held (s : State) (h : s.table = oneCode.table) : s.holdsTable oneTable := by
  intro x
  rw [entry_congr h x, oneCode, entry_setEntry]
  by_cases hx : x = 0x61#8
  · subst hx
    rw [if_pos rfl]
    exact ⟨rfl, rfl⟩
  · have hl : oneTable.lookup x = none := by
      simp [oneTable, List.lookup, beq_eq_false_iff_ne.mpr hx]
    rw [hl, if_neg hx]
    simp

theorem witness_EncoderContractOnSuccess :
    oneTable.codesNonEmpty ∧ encRun.holdsTable oneTable ∧ encRun.mode = .idle ∧
    (∀ x ∈ [0x61#8], (oneTable.lookup x).isSome = true) ∧ encRun.noReset 4 ∧
    (∃ t, runSteps 4 encRun = .next t) ∧ wordsTransferred 4 encRun = wordsOf (Asm.encodeStream [0x61#8]) := by
  refine ⟨?_, oneTable_held _ rfl, rfl, by decide, noReset_of_quiet rfl 4, exists_of_isNext (by decide +kernel),
    by decide +kernel⟩
  unfold Ref.CodeTable.codesNonEmpty
  decide

/-- `enc 'a'`, `enc 'e'`, `enc 'a'`, `flush` on the one-code block: the second misses, the third is discarded. -/
def missRun : State := { oneCode with cmds := [0x40610000#32, 0x40650000#32, 0x40610000#32, 0x50000000#32] }

theorem witness_EncoderContractOnFailure :
    oneTable.codesNonEmpty ∧ missRun.holdsTable oneTable ∧ missRun.mode = .idle ∧
    (∀ x ∈ [0x61#8], (oneTable.lookup x).isSome = true) ∧ oneTable.lookup 0x65#8 = none ∧ missRun.noReset 6 ∧
    (∃ t, runSteps 6 missRun = .next t) ∧
    wordsTransferred 6 missRun = wordsOf (Asm.encodeStream ([0x61#8] ++ 0x65#8 :: [0x61#8])) := by
  refine ⟨witness_EncoderContractOnSuccess.1, oneTable_held _ rfl, rfl, by decide, by decide, noReset_of_quiet rfl 6,
    exists_of_isNext (by decide +kernel), by decide +kernel⟩

theorem prefixFree_T1 : tableT1.prefixFree := by
  unfold Ref.CodeTable.prefixFree
  decide

/-- A bit and an `End` item that transfer, a reset that cuts a stream off, and a cycle with no transfer. -/
theorem witness_StreamsSplitAtEndItems :
    let cut := { State.reset with out := [.bit true] }
    ({ State.reset with ser := [.bit true] }).ser = .bit true :: [] ∧
    ({ cut with ser := [.endMark true] }).ser = .endMark true :: [] ∧
    (offering 0#32).rst = false ∧ (offering 0#32).outReady = true ∧
    ({ offering 0#32 with rst := true }).rst = true ∧ (Ref.takenStreams cut).2 ≠ [] ∧
    itemTransfers (offering 0#32) State.reset = false ∧ ∃ t, clockEdge (offering 0#32) State.reset = .next t :=
  ⟨rfl, rfl, rfl, rfl, rfl, by decide, rfl, ⟨_, rfl⟩⟩

theorem witness_DecodeOfEncodeIsTheInput :
    tableT1.isMap ∧ tableT1.codesNonEmpty ∧ tableT1.prefixFree ∧
    (∀ x ∈ abacabad, (tableT1.lookup x).isSome = true) := by
  refine ⟨witness_LoadTableGivesTheTable.1.1, ?_, prefixFree_T1, by decide⟩
  unfold Ref.CodeTable.codesNonEmpty
  decide

theorem witness_IncompleteCodeIsTruncated :
    tableT1.isMap ∧ tableT1.codesNonEmpty ∧ tableT1.prefixFree ∧ Ref.encode tableT1 [0x62#8] = .ok [true, false] ∧
    (0x64#8, [true, true, true]) ∈ tableT1 ∧ [true, true] <+: [true, true, true] ∧
    [true, true] ≠ [true, true, true] ∧ [true, true] ≠ [] := by
  refine ⟨witness_DecodeOfEncodeIsTheInput.1, witness_DecodeOfEncodeIsTheInput.2.1, prefixFree_T1, by decide,
    by decide, by decide, by decide, by decide⟩

theorem witness_HostSequenceRoundTrips :
    let s := { inError with cmds := wordsOf (Asm.hostSequence [0x61#8] true true), env := [stallCycle] }
    let r := { State.reset with cmds := wordsOf (Asm.hostSequence [0x61#8] false false) }
    [0x61#8] ≠ ([] : List Symbol) ∧ s.ser = [] ∧ (∀ e ∈ s.env, e.rst = false) ∧
    s.cmds = wordsOf (Asm.hostSequence [0x61#8] true true) ∧ r.mode = .idle ∧ r.ser = [] ∧
    (∀ e ∈ r.env, e.rst = false) ∧ r.cmds = wordsOf (Asm.hostSequence [0x61#8] false false) := by
  refine ⟨by simp, rfl, by decide, rfl, rfl, rfl, by decide, rfl⟩

theorem witness_FrequenciesCountTheInput :
    (0x61#8, 4) ∈ Ref.frequencies abacabad ∧ 0x61#8 ∈ abacabad := by decide +kernel

theorem witness_BuildTreeHasTheSymbolsAsLeaves :
    ([] : Ref.FreqTable) = [] ∧ Ref.frequencies abacabad ≠ [] := by decide +kernel

theorem witness_BuiltTablesArePrefixFree : abacabad ≠ [] := by decide

theorem witness_BuiltCodesAreShort :
    Ref.codeTableOf abacabad = .ok tableT1 ∧ (0x64#8, [true, true, true]) ∈ tableT1 := by decide +kernel

theorem witness_BuiltTablesAreOptimal :
    Ref.codeTableOf abacabad = .ok tableT1 ∧ tableT1.isMap ∧ tableT1.codesNonEmpty ∧ tableT1.prefixFree ∧
    (∀ x ∈ abacabad, (tableT1.lookup x).isSome = true) :=
  ⟨test_codeTable.1, witness_DecodeOfEncodeIsTheInput⟩

/-- `clr.status`, `enc 'a'`, `flush` on the one-code block. -/
def clearedRun : State := { oneCode with cmds := [0x60000000#32, 0x40610000#32, 0x50000000#32] }

theorem witness_SizesFromTheCounters :
    oneTable.isMap ∧ oneTable.codesNonEmpty ∧ clearedRun.holdsTable oneTable ∧ clearedRun.mode = .idle ∧
    (∀ x ∈ [0x61#8], (oneTable.lookup x).isSome = true) ∧ clearedRun.noReset 5 ∧
    (∃ t, runSteps 5 clearedRun = .next t) ∧
    wordsTransferred 5 clearedRun = wordsOf (.clrStatus :: Asm.encodeStream [0x61#8]) ∧
    [0x61#8].length < 2 ^ 32 ∧ Ref.encodedLength [0x61#8] oneTable < 2 ^ 32 := by
  refine ⟨?_, witness_EncoderContractOnSuccess.1, oneTable_held _ rfl, rfl, by decide, noReset_of_quiet rfl 5,
    exists_of_isNext (by decide +kernel), by decide +kernel, by decide, by decide⟩
  unfold Ref.CodeTable.isMap
  decide

theorem witness_AssemblerWordsAndRanges :
    Asm.assemble (.tblLen 255 255) = some [0x20FF00FF#32] ∧ Asm.assemble (.tblLen 255 256) = none ∧
    Asm.assemble (.tblLen 256 0) = none ∧ Asm.assemble (.tblBits 255 15 65535) = some [0x3FFFFFFF#32] ∧
    Asm.assemble (.tblBits 0 16 0) = none ∧ Asm.assemble (.tblBits 0 0 65536) = none ∧
    Asm.assemble (.enc 256) = none := by decide

end Sys2Proof.Tests
end

section
/-! SUPPORT. The register port by kind of address (R42, R52): misaligned, unmapped, a register below 0x1C, or an entry's
window; and the entry registers at the addresses the map writes for them. -/

namespace Sys2Proof.Machine

/-! ### Fields of an address as numbers -/

theorem csrSym_toNat (a : CsrAddr) : (csrSym a).toNat = a.toNat / 2 ^ 7 % 2 ^ 8 := by
  simp [csrSym, Nat.shiftRight_eq_div_pow]

theorem csrOff_toNat (a : CsrAddr) : (csrOff a).toNat = a.toNat % 2 ^ 7 := by
  simp [csrOff]

theorem csrChunk_toNat (a : CsrAddr) : (csrChunk a).toNat = a.toNat / 2 ^ 2 % 2 ^ 4 := by
  simp [csrChunk, Nat.shiftRight_eq_div_pow]

/-- The alignment test of R52, on the address as a number. -/
theorem alignBits_eq_zero_iff (a : CsrAddr) : a.extractLsb' 0 2 = 0#2 ↔ a.toNat % 4 = 0 := by
  simp [BitVec.toNat_eq]

/-- `addr[15]` says that the address lies in the entry windows (R42). -/
theorem getLsbD_windowBit (a : CsrAddr) : a.getLsbD 15 = decide (0x8000 ≤ a.toNat) := by
  rw [← BitVec.msb_eq_getLsbD_last a, BitVec.msb_eq_decide]

/-! ### One lemma per kind of address -/

theorem csrRead_of_misaligned {a : CsrAddr} (h : a.toNat % 4 ≠ 0) (s : State) : csrRead a s = .bad := by
  have hb : a.extractLsb' 0 2 ≠ 0#2 := mt (alignBits_eq_zero_iff a).mp h
  simp [csrRead, hb]

/-- An aligned address past the seven registers is decided by its window bit alone. -/
theorem csrRead_past_registers {a : CsrAddr} (hal : a.toNat % 4 = 0) (hlo : 0x1C ≤ a.toNat) (s : State) :
    csrRead a s = if 0x8000 ≤ a.toNat then csrEntryRead a s else .bad := by
  have hb : a.extractLsb' 0 2 = 0#2 := (alignBits_eq_zero_iff a).mpr hal
  rw [csrRead, if_neg (not_not.mpr hb)]
  repeat rw [if_neg (by rintro rfl; simp at hlo)]
  simp only [getLsbD_windowBit, decide_eq_true_eq]

theorem csrRead_of_unmapped {a : CsrAddr} (hlo : 0x1C ≤ a.toNat) (hhi : a.toNat < 0x8000) (s : State) :
    csrRead a s = .bad := by
  by_cases hal : a.toNat % 4 = 0
  · rw [csrRead_past_registers hal hlo, if_neg (by omega)]
  · exact csrRead_of_misaligned hal s

/-- An aligned address below 0x1C is one of the seven registers, so it answers with a value. -/
theorem csrRead_of_register {a : CsrAddr} (hal : a.toNat % 4 = 0) (hlo : a.toNat < 0x1C) (s : State) :
    ∃ w, csrRead a s = .ok w := by
  have ha : a = BitVec.ofNat 16 a.toNat := by simp
  obtain h | h | h | h | h | h | h : a.toNat = 0 ∨ a.toNat = 4 ∨ a.toNat = 8 ∨ a.toNat = 12 ∨ a.toNat = 16 ∨
      a.toNat = 20 ∨ a.toNat = 24 := by omega
  all_goals rw [h] at ha; subst ha; exact ⟨_, rfl⟩

theorem csrRead_of_window {a : CsrAddr} (hal : a.toNat % 4 = 0) (hwin : 0x8000 ≤ a.toNat) (s : State) :
    csrRead a s = csrEntryRead a s := by
  rw [csrRead_past_registers hal (by omega), if_pos hwin]

theorem csrEntryRead_of_chunk {a : CsrAddr} (h : a.toNat % 0x80 < 0x40) (s : State) :
    csrEntryRead a s = .ok ((s.entry (csrSym a)).chunk (csrChunk a)) := by
  have ho : (csrOff a).toNat < 0x40 := by simpa [csrOff_toNat] using h
  simp [csrEntryRead, ho]

theorem csrEntryRead_of_len {a : CsrAddr} (h : a.toNat % 0x80 = 0x40) (s : State) :
    csrEntryRead a s = .ok (s.entry (csrSym a)).lenWord := by
  have ho : csrOff a = 0x40#7 := BitVec.eq_of_toNat_eq (by simpa [csrOff_toNat] using h)
  simp [csrEntryRead, ho]

theorem csrEntryRead_of_gap {a : CsrAddr} (h : 0x40 < a.toNat % 0x80) (s : State) : csrEntryRead a s = .bad := by
  have hn : (csrOff a).toNat = a.toNat % 0x80 := csrOff_toNat a
  have ho : csrOff a ≠ 0x40#7 := by bv_omega
  rw [csrEntryRead, if_neg (by omega), if_neg ho]

/-- Above an entry's last register the window answers an error, aligned or not (R52). -/
theorem csrRead_of_gap {a : CsrAddr} (hwin : 0x8000 ≤ a.toNat) (hgap : 0x40 < a.toNat % 0x80) (s : State) :
    csrRead a s = .bad := by
  by_cases hal : a.toNat % 4 = 0
  · rw [csrRead_of_window hal hwin, csrEntryRead_of_gap hgap]
  · exact csrRead_of_misaligned hal s

/-- Up to an entry's last register the aligned addresses of its window answer with a value. -/
theorem csrRead_of_entryRegister {a : CsrAddr} (hal : a.toNat % 4 = 0) (hwin : 0x8000 ≤ a.toNat)
    (hoff : a.toNat % 0x80 ≤ 0x40) (s : State) : ∃ w, csrRead a s = .ok w := by
  rw [csrRead_of_window hal hwin]
  obtain h | h := Nat.lt_or_eq_of_le hoff
  · exact ⟨_, csrEntryRead_of_chunk h s⟩
  · exact ⟨_, csrEntryRead_of_len h s⟩

/-! ### The entry registers at their addresses -/

/-- An address of an entry's window, as a number. -/
theorem entryAddr_toNat (sym : Symbol) {off : Nat} (h : off < 0x80) :
    (BitVec.ofNat 16 (0x8000 + 0x80 * sym.toNat + off)).toNat = 0x8000 + 0x80 * sym.toNat + off := by
  have := sym.isLt
  rw [BitVec.toNat_ofNat, Nat.mod_eq_of_lt (by omega)]

/-- An address of an entry's window names that entry. -/
theorem csrSym_entryAddr (sym : Symbol) {off : Nat} (h : off < 0x80) :
    csrSym (BitVec.ofNat 16 (0x8000 + 0x80 * sym.toNat + off)) = sym := by
  have := sym.isLt
  apply BitVec.eq_of_toNat_eq
  rw [csrSym_toNat, entryAddr_toNat sym h]
  omega

/-- ENTRY_CHUNK(sym, K) at the address of the map (R42, R50). -/
theorem csrRead_entryChunk (sym : Symbol) (k : BitVec 4) (s : State) :
    csrRead (BitVec.ofNat 16 (0x8000 + 0x80 * sym.toNat + 4 * k.toNat)) s = .ok ((s.entry sym).chunk k) := by
  have hk := k.isLt
  have ha := entryAddr_toNat sym (off := 4 * k.toNat) (by omega)
  have hsym := csrSym_entryAddr sym (off := 4 * k.toNat) (by omega)
  have hchunk : csrChunk (BitVec.ofNat 16 (0x8000 + 0x80 * sym.toNat + 4 * k.toNat)) = k :=
    BitVec.eq_of_toNat_eq (by rw [csrChunk_toNat, ha]; omega)
  rw [csrRead_of_window (by omega) (by omega), csrEntryRead_of_chunk (by omega), hsym, hchunk]

/-- ENTRY_LEN(sym) at the address of the map (R42, R51). -/
theorem csrRead_entryLen (sym : Symbol) (s : State) :
    csrRead (BitVec.ofNat 16 (0x8000 + 0x80 * sym.toNat + 0x40)) s = .ok (s.entry sym).lenWord := by
  have ha := entryAddr_toNat sym (off := 0x40) (by omega)
  rw [csrRead_of_window (by omega) (by omega), csrEntryRead_of_len (by omega), csrSym_entryAddr sym (by omega)]

/-! ### R42, R52 -/

/-- Settles O26, by one lemma per kind of address; the registers at fixed addresses are read by evaluation. -/
theorem registerMapReads : Obligations.RegisterMapReads := by
  refine ⟨fun p s _ => ⟨rfl, rfl⟩, fun s => ⟨rfl, rfl, rfl, rfl, rfl, rfl, rfl, ?_, ?_, ?_, ?_, ?_⟩⟩
  · exact fun sym k => csrRead_entryChunk sym k s
  · exact fun sym => csrRead_entryLen sym s
  · exact fun a hlo hhi => csrRead_of_unmapped hlo hhi s
  · exact fun a hwin hgap => csrRead_of_gap hwin (by omega) s
  · exact fun a hmis => csrRead_of_misaligned hmis s

/-- Settles O27: the addresses fall in the three kinds that answer an error and the two that answer with a value. -/
theorem badReadsAnswerAnError : Obligations.BadReadsAnswerAnError := by
  intro a s
  by_cases hbad : a.toNat % 4 ≠ 0 ∨ (0x1C ≤ a.toNat ∧ a.toNat < 0x8000) ∨ (0x8000 ≤ a.toNat ∧ 0x40 < a.toNat % 0x80)
  · have hread : csrRead a s = .bad := by
      obtain hmis | ⟨hlo, hhi⟩ | ⟨hwin, hgap⟩ := hbad
      · exact csrRead_of_misaligned hmis s
      · exact csrRead_of_unmapped hlo hhi s
      · exact csrRead_of_gap hwin hgap s
    simp only [hread, CsrResp.bad, hbad, implies_true, and_self]
  · have hread : ∃ w, csrRead a s = .ok w := by
      obtain hreg | hwin : a.toNat < 0x1C ∨ 0x8000 ≤ a.toNat := by omega
      · exact csrRead_of_register (by omega) hreg s
      · exact csrRead_of_entryRegister (by omega) hwin (by omega) s
    obtain ⟨w, hread⟩ := hread
    simp [hread, CsrResp.ok, hbad]

end Sys2Proof.Machine
end
section
/-! SUPPORT. STATUS by its fields (R44): a field of a union of placed fields is read off the placed fields one by one. -/

namespace Sys2Proof.Machine

/-- A placed field reads back at its own place. -/
theorem extractLsb'_place_same {n lo : Nat} (h : lo + n ≤ 32) (f : BitVec n) : (place lo f).extractLsb' lo n = f := by
  ext i hi
  simp only [BitVec.getElem_extractLsb', getLsbD_place, BitVec.getLsbD_eq_getElem hi, Nat.add_sub_cancel_left]
  simp [show lo + i < 32 by omega]

/-- A placed field is 0 in every field beside it. -/
theorem extractLsb'_place_beside {n m lo pos : Nat} (h : pos + m ≤ lo ∨ lo + n ≤ pos) (f : BitVec n) :
    (place lo f).extractLsb' pos m = 0#m := by
  ext i hi
  simp only [BitVec.getElem_extractLsb', getLsbD_place, BitVec.getElem_zero]
  obtain h | h := h
  · simp [show ¬ lo ≤ pos + i by omega]
  · simp [BitVec.getLsbD_of_ge f (pos + i - lo) (by omega)]

theorem serBusy_iff (s : State) : s.serBusy = true ↔ s.ser ≠ [] := by
  simp [State.serBusy]

theorem modeBits_ne_three (m : Mode) : m.bits ≠ 3#2 := by
  cases m <;> decide

theorem status_mode (s : State) : s.status.extractLsb' 0 2 = s.mode.bits := by
  simp (disch := omega) [State.status, BitVec.extractLsb'_or, extractLsb'_place_same, extractLsb'_place_beside]

theorem status_errSym (s : State) : s.status.extractLsb' 16 8 = s.errSym := by
  simp (disch := omega) [State.status, BitVec.extractLsb'_or, extractLsb'_place_same, extractLsb'_place_beside]

/-- The three reserved fields of STATUS. -/
theorem status_reserved (s : State) :
    s.status.extractLsb' 3 5 = 0#5 ∧ s.status.extractLsb' 11 5 = 0#5 ∧ s.status.extractLsb' 24 8 = 0#8 := by
  simp (disch := omega) [State.status, BitVec.extractLsb'_or, extractLsb'_place_beside]

/-- The four one-bit fields of STATUS. -/
theorem status_bits (s : State) :
    s.status.getLsbD 2 = s.serBusy ∧ s.status.getLsbD 8 = s.errSnf ∧ s.status.getLsbD 9 = s.errIll ∧
      s.status.getLsbD 10 = s.errTbl := by
  simp [State.status]

/-- Settles O28, field by field. -/
theorem statusShowsModeBusyAndFlags : Obligations.StatusShowsModeBusyAndFlags := by
  intro s
  obtain ⟨hbusy, hsnf, hill, htbl⟩ := status_bits s
  obtain ⟨hlow, hmid, hhigh⟩ := status_reserved s
  refine ⟨s.status, rfl, ?_, ?_, ?_, hlow, hsnf, hill, htbl, hmid, status_errSym s, hhigh⟩
  · rw [status_mode]; cases s.mode <;> rfl
  · rw [status_mode]; exact modeBits_ne_three s.mode
  · rw [hbusy, serBusy_iff]

end Sys2Proof.Machine
end

section
/-! SUPPORT. The registers that show the code table (R48, R49, R50). -/

namespace Sys2Proof.Machine

/-- The table as a list is its entries in the order of the symbols (R33). -/
theorem table_toList (s : State) : s.table.toList = (List.range 256).map (fun x => s.entry (BitVec.ofNat 8 x)) := by
  apply List.ext_getElem
  · simp
  · intro i hi _
    have hi' : i % 256 = i := Nat.mod_eq_of_lt (by simpa using hi)
    simp [State.entry, hi']

theorem nvalid_eq_countP (s : State) :
    s.nvalid = (List.range 256).countP (fun x => (s.entry (BitVec.ofNat 8 x)).len != 0#8) := by
  rw [State.nvalid, table_toList, List.countP_map]
  rfl

theorem nvalid_le (s : State) : s.nvalid ≤ 256 :=
  List.countP_le_length.trans_eq (by simp)

theorem lenSum_eq_sum (s : State) :
    s.lenSum = ((List.range 256).map (fun x => (s.entry (BitVec.ofNat 8 x)).len.toNat)).sum := by
  rw [State.lenSum, table_toList, List.map_map]
  rfl

/-- 256 lengths of at most 255 each. -/
theorem lenSum_le (s : State) : s.lenSum ≤ 65280 := by
  have hle : ∀ n ∈ s.table.toList.map (fun e => e.len.toNat), n ≤ 255 := by
    intro n hn
    obtain ⟨e, -, rfl⟩ := List.mem_map.mp hn
    exact Nat.le_of_lt_succ e.len.isLt
  simpa [State.lenSum] using List.sum_le_card_nsmul _ 255 hle

/-- A word whose value is below `2^lo` has no bit from `lo` on. -/
theorem extractLsb'_eq_zero_of_lt {w : Word} {lo : Nat} (n : Nat) (h : w.toNat < 2 ^ lo) :
    w.extractLsb' lo n = 0#n := by
  apply BitVec.eq_of_toNat_eq
  simp [Nat.shiftRight_eq_div_pow, Nat.div_eq_of_lt h]

/-- Settles O29: the count over the table is the count over the symbols, and it fits in nine bits. -/
theorem tblNvalidCountsValidEntries : Obligations.TblNvalidCountsValidEntries := by
  intro s
  have hle := nvalid_le s
  have hval : (BitVec.ofNat 32 s.nvalid).toNat = s.nvalid := by rw [BitVec.toNat_ofNat]; omega
  refine ⟨_, rfl, hval.trans (nvalid_eq_countP s), hval.trans_le hle, ?_⟩
  exact extractLsb'_eq_zero_of_lt 23 (by omega)

/-- Settles O30: the sum over the table is the sum over the symbols, and it fits in sixteen bits. -/
theorem tblLensumSumsTheLengths : Obligations.TblLensumSumsTheLengths := by
  intro s
  have hle := lenSum_le s
  have hval : (BitVec.ofNat 32 s.lenSum).toNat = s.lenSum := by rw [BitVec.toNat_ofNat]; omega
  refine ⟨_, rfl, hval.trans (lenSum_eq_sum s), hval.trans_le hle, ?_⟩
  exact extractLsb'_eq_zero_of_lt 16 (by omega)

/-- The upper half of ENTRY_CHUNK is 0. -/
theorem chunk_upper (e : Entry) (k : BitVec 4) : (e.chunk k).extractLsb' 16 16 = 0#16 := by
  ext i hi
  simp [chunk_getLsbD]

/-- Bit `j` of ENTRY_CHUNK is the code's own bit where the code has one (R34, R50). -/
theorem chunk_getLsbD_code (e : Entry) (k : BitVec 4) {j : Nat} (hj : j < 16) (h : 16 * k.toNat + j < e.code.length) :
    (e.chunk k).getLsbD j = e.code[16 * k.toNat + j] := by
  have hlen : 16 * k.toNat + j < e.len.toNat := by simpa using h
  simp [chunk_getLsbD, code_getElem, hj, hlen]

/-- Settles O31, from the bits of a chunk. -/
theorem entryChunkReadsBitsBelowLen : Obligations.EntryChunkReadsBitsBelowLen := by
  intro s sym k
  refine ⟨(s.entry sym).chunk k, csrRead_entryChunk sym k s, ?_, ?_, chunk_upper _ k⟩
  · intro j hj
    simp [chunk_getLsbD, hj, Entry.cell]
  · exact fun j hj h => chunk_getLsbD_code _ k hj h

end Sys2Proof.Machine
end
section
/-! SUPPORT. What a step does to the error flags, ERR_SYM and the counters (R38-R41, R45-R47), said once: the one event of
the step that touches them, when each event occurs, and the fields after it. -/

namespace Sys2Proof.Machine

/-! ### The events -/

/-- What a step does to the flags, ERR_SYM and the counters. One step has one event. -/
inductive RecordEvent where
  /-- Nothing. -/
  | keep
  /-- Reset or CLR_STATUS. -/
  | clear
  /-- ENC of an absent symbol. -/
  | miss (sym : Symbol)
  /-- ENC of a symbol of the table. -/
  | hit (sym : Symbol)
  /-- An illegal word. -/
  | ill
  /-- A table command in mode STREAM. -/
  | tbl
  /-- A command that mode ERROR discards. -/
  | drop

/-- The event of a table command, which its guard decides (R240). -/
def tableEvent (s : State) : RecordEvent :=
  match s.mode with
  | .idle => .keep
  | .stream => .tbl
  | .error => .drop

/-- The event of a command. -/
def commandEvent (s : State) : Instr → RecordEvent
  | .nop | .flush => .keep
  | .clrStatus => .clear
  | .tblClear | .tblLen _ _ | .tblBits _ _ _ => tableEvent s
  | .enc sym => if s.mode = .error then .drop else if (s.entry sym).len = 0#8 then .miss sym else .hit sym

/-- The event of an accepted word. -/
def wordEvent (s : State) (w : Word) : RecordEvent :=
  match decode w with
  | .instr i => commandEvent s i
  | .illegal _ => .ill

/-- The event of the coming step. -/
def State.event (s : State) : RecordEvent :=
  if s.pins.rst then .clear
  else if cmdTransfers s.pins s then wordEvent s s.pins.cmdData
  else .keep

/-- The operation of the model that has an event's effect on the flags, ERR_SYM and the counters. -/
@[simp] def RecordEvent.apply (s : State) : RecordEvent → State
  | .keep => s
  | .clear => clearStatus s
  | .miss sym => raiseError (.snf sym) s
  | .hit sym => encodeSymbol sym s
  | .ill => raiseError .ill s
  | .tbl => raiseError .tbl s
  | .drop => discard s

/-- When an event other than `keep` occurs, in the words of the obligations. -/
def RecordEvent.Occurs (s : State) : RecordEvent → Prop
  | .keep => True
  | .clear => s.pins.rst = true ∨ s.executes .clrStatus
  | .miss sym => s.missesOn sym
  | .hit sym => s.hitsOn sym
  | .ill => s.acceptsIllegal
  | .tbl => ∃ i, isTableCommand i = true ∧ s.executes i ∧ s.mode = .stream
  | .drop => ∃ i, s.executes i ∧ isDiscardable i = true ∧ s.mode = .error

/-- `t` holds the same flags, ERR_SYM and counters as `s`. -/
structure SameRecord (s t : State) : Prop where
  errSnf : t.errSnf = s.errSnf
  errIll : t.errIll = s.errIll
  errTbl : t.errTbl = s.errTbl
  errSym : t.errSym = s.errSym
  symCount : t.symCount = s.symCount
  bitCount : t.bitCount = s.bitCount
  dropCount : t.dropCount = s.dropCount

@[simp] theorem commandEvent_advance (s : State) (i : Instr) : commandEvent s.advance i = commandEvent s i := rfl

theorem SameRecord.refl (s : State) : SameRecord s s := ⟨rfl, rfl, rfl, rfl, rfl, rfl, rfl⟩

/-! ### The event of a step has the effect of the step -/

theorem tableGuard_sameRecord {effect : State → State} {s : State} (h : SameRecord s (effect s)) :
    SameRecord ((tableEvent s).apply s) (tableGuard effect s) := by
  unfold tableEvent tableGuard
  cases s.mode with
  | idle => exact h
  | stream | error => exact .refl _

theorem resultOf_sameRecord (i : Instr) (s : State) : SameRecord ((commandEvent s i).apply s) (resultOf i s) := by
  cases i with
  | nop | clrStatus => exact .refl _
  | flush => exact ⟨rfl, rfl, rfl, rfl, rfl, rfl, rfl⟩
  | tblClear | tblLen | tblBits =>
    apply tableGuard_sameRecord
    constructor <;> rfl
  | enc sym =>
    obtain ⟨hm, h⟩ | ⟨hm, hl, h⟩ | ⟨hm, hl, h⟩ := enc_cases sym s
    · simpa [commandEvent, hm, h] using SameRecord.refl (discard s)
    · simpa [commandEvent, hm, hl, h] using SameRecord.refl (raiseError (.snf sym) s)
    · simpa [commandEvent, hm, hl, h] using SameRecord.refl (encodeSymbol sym s)

theorem serializerStep_sameRecord (s : State) : SameRecord s (serializerStep s) := by
  constructor <;> simp

theorem resetBlock_sameRecord (s : State) : SameRecord (clearStatus s) (resetBlock s) := by
  constructor <;> simp

/-- The flags, ERR_SYM and the counters after a step are those after its event. -/
theorem step_sameRecord {s t : State} (h : step s = .next t) : SameRecord (s.event.apply s.advance) t := by
  obtain ⟨hr, rfl⟩ | ⟨i, hc, hd, rfl⟩ | ⟨r, hc, hd, rfl⟩ | ⟨hi, rfl⟩ | ⟨hr, hc, -, rfl⟩ := step_cases h
  · simpa [State.event, hr] using resetBlock_sameRecord s.advance
  · obtain ⟨-, -, hr⟩ := (cmdTransfers_iff _ _).mp hc
    simpa [State.event, hr, hc, wordEvent, hd] using resultOf_sameRecord i s.advance
  · obtain ⟨-, -, hr⟩ := (cmdTransfers_iff _ _).mp hc
    simpa [State.event, hr, hc, wordEvent, hd] using SameRecord.refl (raiseError .ill s.advance)
  · obtain ⟨hser, hr, -⟩ := (itemTransfers_iff _ _).mp hi
    have hc : cmdTransfers s.pins s = false := by simp [cmdTransfers, cmdReady, hser]
    simpa [State.event, hr, hc] using serializerStep_sameRecord s.advance
  · simpa [State.event, hr, hc] using SameRecord.refl s.advance

/-! ### When each event occurs -/

theorem rst_of_executes {s : State} {i : Instr} (h : s.executes i) : s.pins.rst = false := by
  obtain ⟨hc, -⟩ := (executes_iff s i).mp h
  exact ((cmdTransfers_iff _ _).mp hc).2.2

theorem event_of_executes {s : State} {i : Instr} (h : s.executes i) : s.event = commandEvent s i := by
  obtain ⟨hc, hd⟩ := (executes_iff s i).mp h
  simp [State.event, rst_of_executes h, hc, wordEvent, hd]

theorem event_of_acceptsIllegal {s : State} (h : s.acceptsIllegal) : s.event = .ill := by
  obtain ⟨hc, r, hd⟩ := (acceptsIllegal_iff s).mp h
  obtain ⟨-, -, hr⟩ := (cmdTransfers_iff _ _).mp hc
  simp [State.event, hr, hc, wordEvent, hd]

theorem tableEvent_occurs {s : State} {i : Instr} (hx : s.executes i) (hi : isTableCommand i = true)
    (hd : isDiscardable i = true) : (tableEvent s).Occurs s := by
  unfold tableEvent
  cases hm : s.mode with
  | idle => trivial
  | stream => exact ⟨i, hi, hx, hm⟩
  | error => exact ⟨i, hx, hd, hm⟩

theorem commandEvent_occurs {s : State} {i : Instr} (hx : s.executes i) : (commandEvent s i).Occurs s := by
  cases i with
  | nop | flush => trivial
  | clrStatus => exact .inr hx
  | tblClear | tblLen | tblBits => exact tableEvent_occurs hx rfl rfl
  | enc sym =>
    rw [commandEvent]
    split
    next hm => exact ⟨_, hx, rfl, hm⟩
    next hm =>
      split
      next hl => exact ⟨hx, hm, hl⟩
      next hl => exact ⟨hx, hm, hl⟩

/-- The event of a step occurs in it. -/
theorem event_occurs (s : State) : s.event.Occurs s := by
  unfold State.event
  split
  next hr => exact .inl hr
  next hr =>
    split
    next hc =>
      unfold wordEvent
      cases hd : decode s.pins.cmdData with
      | instr i => exact commandEvent_occurs ((executes_iff s i).mpr ⟨hc, hd⟩)
      | illegal r => exact (acceptsIllegal_iff s).mpr ⟨hc, r, hd⟩
    next => trivial

theorem commandEvent_of_stream {s : State} {i : Instr} (hi : isTableCommand i = true) (hm : s.mode = .stream) :
    commandEvent s i = .tbl := by
  cases i with
  | tblClear | tblLen | tblBits => simp [commandEvent, tableEvent, hm]
  | nop | enc | flush | clrStatus => cases hi

theorem commandEvent_of_error {s : State} {i : Instr} (hi : isDiscardable i = true) (hm : s.mode = .error) :
    commandEvent s i = .drop := by
  cases i with
  | tblClear | tblLen | tblBits | enc => simp [commandEvent, tableEvent, hm]
  | nop | flush | clrStatus => cases hi

/-- No other event occurs in a step than its own. -/
theorem event_eq_of_occurs {s : State} {e : RecordEvent} (hk : e ≠ .keep) (h : e.Occurs s) : s.event = e := by
  cases e with
  | keep => exact absurd rfl hk
  | clear =>
    obtain hr | hx := h
    · simp [State.event, hr]
    · exact event_of_executes hx
  | miss sym =>
    obtain ⟨hx, hm, hl⟩ := h
    simp [event_of_executes hx, commandEvent, hm, hl]
  | hit sym =>
    obtain ⟨hx, hm, hl⟩ := h
    simp [event_of_executes hx, commandEvent, hm, hl]
  | ill => exact event_of_acceptsIllegal h
  | tbl =>
    obtain ⟨i, hi, hx, hm⟩ := h
    rw [event_of_executes hx, commandEvent_of_stream hi hm]
  | drop =>
    obtain ⟨i, hx, hi, hm⟩ := h
    rw [event_of_executes hx, commandEvent_of_error hi hm]

theorem occurs_iff {s : State} {e : RecordEvent} (hk : e ≠ .keep) : e.Occurs s ↔ s.event = e :=
  ⟨event_eq_of_occurs hk, fun h => h ▸ event_occurs s⟩

theorem clear_iff (s : State) : (s.pins.rst = true ∨ s.executes .clrStatus) ↔ s.event = .clear :=
  occurs_iff (e := .clear) nofun

theorem not_clear_iff (s : State) : (s.pins.rst = false ∧ ¬ s.executes .clrStatus) ↔ s.event ≠ .clear := by
  rw [ne_eq, ← clear_iff, not_or, Bool.not_eq_true]

theorem missesOn_iff (s : State) (sym : Symbol) : s.missesOn sym ↔ s.event = .miss sym :=
  occurs_iff (e := .miss sym) nofun

theorem hitsOn_iff (s : State) (sym : Symbol) : s.hitsOn sym ↔ s.event = .hit sym :=
  occurs_iff (e := .hit sym) nofun

theorem acceptsIllegal_iff_event (s : State) : s.acceptsIllegal ↔ s.event = .ill :=
  occurs_iff (e := .ill) nofun

theorem tableError_iff (s : State) :
    (∃ i, isTableCommand i = true ∧ s.executes i ∧ s.mode = .stream) ↔ s.event = .tbl :=
  occurs_iff (e := .tbl) nofun

theorem discards_iff (s : State) :
    (∃ i, s.executes i ∧ isDiscardable i = true ∧ s.mode = .error) ↔ s.event = .drop :=
  occurs_iff (e := .drop) nofun

/-! ### The flags, ERR_SYM and the counters after a step -/

/-- ERR_SNF after a step (R38). -/
theorem step_errSnf_iff {s t : State} (h : step s = .next t) :
    t.errSnf = true ↔ s.event ≠ .clear ∧ (s.errSnf = true ∨ ∃ sym, s.event = .miss sym) := by
  rw [(step_sameRecord h).errSnf]
  cases s.event <;> simp

/-- ERR_ILL after a step (R39). -/
theorem step_errIll_iff {s t : State} (h : step s = .next t) :
    t.errIll = true ↔ s.event ≠ .clear ∧ (s.errIll = true ∨ s.event = .ill) := by
  rw [(step_sameRecord h).errIll]
  cases s.event <;> simp

/-- ERR_TBL after a step (R40). -/
theorem step_errTbl_iff {s t : State} (h : step s = .next t) :
    t.errTbl = true ↔ s.event ≠ .clear ∧ (s.errTbl = true ∨ s.event = .tbl) := by
  rw [(step_sameRecord h).errTbl]
  cases s.event <;> simp

/-- Settles O35, by the event of the step. -/
theorem stickyFlagsAreSetAndClearedExactly : Obligations.StickyFlagsAreSetAndClearedExactly := by
  refine ⟨fun s t h => ?_, rfl, rfl, rfl⟩
  simp only [← and_assoc, not_clear_iff, missesOn_iff, acceptsIllegal_iff_event]
  simp only [and_assoc, tableError_iff]
  exact ⟨step_errSnf_iff h, step_errIll_iff h, step_errTbl_iff h⟩

theorem errIrq_iff (s : State) : s.errIrq = true ↔ s.errSnf = true ∨ s.errIll = true ∨ s.errTbl = true := by
  simp [State.errIrq, or_assoc]

/-- Without reset and CLR_STATUS `err_irq` stays up: no flag falls (R54). -/
theorem step_errIrq_of_not_clear {s t : State} (h : step s = .next t) (hc : s.event ≠ .clear)
    (hirq : s.errIrq = true) : t.errIrq = true := by
  rw [errIrq_iff, step_errSnf_iff h, step_errIll_iff h, step_errTbl_iff h]
  obtain hf | hf | hf := (errIrq_iff s).mp hirq
  · exact .inl ⟨hc, .inl hf⟩
  · exact .inr (.inl ⟨hc, .inl hf⟩)
  · exact .inr (.inr ⟨hc, .inl hf⟩)

theorem step_errIrq_of_clear {s t : State} (h : step s = .next t) (hc : s.event = .clear) : t.errIrq = false := by
  rw [← Bool.not_eq_true, errIrq_iff, step_errSnf_iff h, step_errIll_iff h, step_errTbl_iff h]
  simp [hc]

/-- Settles O32: the flags decide the level, and they fall together, by the event `clear` alone. -/
theorem errIrqIsTheOrOfTheFlags : Obligations.ErrIrqIsTheOrOfTheFlags := by
  refine ⟨fun p s => errIrq_iff s, fun k s => ?_, fun s t h => ?_⟩
  · rw [errIrq_iff]
    cases k <;> simp
  · rw [clear_iff]
    refine ⟨step_errIrq_of_clear h, fun hs ht => ?_⟩
    by_contra hc
    simp [step_errIrq_of_not_clear h hc hs] at ht

/-- Settles O36: only the events `clear` and `miss` write ERR_SYM, the latter while ERR_SNF is 0. -/
theorem errSymHoldsTheFirstMissingSymbol : Obligations.ErrSymHoldsTheFirstMissingSymbol := by
  refine ⟨fun s t h => ?_, rfl⟩
  rw [(step_sameRecord h).errSym, (step_sameRecord h).errSnf]
  simp only [clear_iff, missesOn_iff]
  refine ⟨fun hc => ?_, fun sym hm hsnf => ?_, fun hc hkeep => ?_⟩
  · simp [hc]
  · simp [hm, hsnf]
  · cases he : s.event with
    | clear => exact absurd he hc
    | miss sym =>
      have hsnf : s.errSnf = true := hkeep.resolve_right (not_not.mpr ⟨sym, he⟩)
      simp [hsnf]
    | keep | hit | ill | tbl | drop => simp

/-- SYM_COUNT and BIT_COUNT after a step that neither clears nor finds a symbol (R45, R46). -/
theorem step_symbolCounts_kept {s t : State} (h : step s = .next t) (hc : s.event ≠ .clear)
    (hh : ∀ sym, s.event ≠ .hit sym) : t.symCount = s.symCount ∧ t.bitCount = s.bitCount := by
  rw [(step_sameRecord h).symCount, (step_sameRecord h).bitCount]
  cases he : s.event with
  | clear => exact absurd he hc
  | hit sym => exact absurd he (hh sym)
  | keep | miss | ill | tbl | drop => simp

/-- DROP_COUNT after a step that neither clears nor discards (R47). -/
theorem step_dropCount_kept {s t : State} (h : step s = .next t) (hc : s.event ≠ .clear) (hd : s.event ≠ .drop) :
    t.dropCount = s.dropCount := by
  rw [(step_sameRecord h).dropCount]
  cases he : s.event with
  | clear => exact absurd he hc
  | drop => exact absurd he hd
  | keep | miss | hit | ill | tbl => simp

/-- Settles O37, by the event of the step; the registers are read by evaluation. -/
theorem countersCountExactly : Obligations.CountersCountExactly := by
  refine ⟨fun s t h => ?_, fun s => ⟨rfl, rfl, rfl⟩, rfl, rfl, rfl⟩
  have hrec := step_sameRecord h
  simp only [clear_iff, hitsOn_iff, discards_iff]
  refine ⟨fun hc => ?_, fun sym hh => ?_, fun i hx hi hm => ?_, fun hc => ⟨fun hh => ?_, fun hd => ?_⟩⟩
  · simp [hrec.symCount, hrec.bitCount, hrec.dropCount, hc]
  · simp [hrec.symCount, hrec.bitCount, hh, BitVec.toNat_add]
  · have hd := (discards_iff s).mp ⟨i, hx, hi, hm⟩
    simp [hrec.dropCount, hd, BitVec.toNat_add]
  · exact step_symbolCounts_kept h hc (not_exists.mp hh)
  · exact step_dropCount_kept h hc hd

end Sys2Proof.Machine
end
section
/-! SUPPORT. The two handshakes (R72, R73): when each ready or valid port is 1, what the item ports then present, and the
effect of a clock edge by its event. -/

namespace Sys2Proof.Machine

/-! ### The ports of the handshakes -/

theorem outputs_cmdReady_iff (p : PinsIn) (s : State) :
    (outputs p s).cmdReady = true ↔ s.ser = [] ∧ p.rst = false := by
  simp [outputs, cmdReady]

theorem outputs_outValid_iff (p : PinsIn) (s : State) :
    (outputs p s).outValid = true ↔ s.ser ≠ [] ∧ p.rst = false := by
  simp [outputs, outValid]

/-- The command handshake at the ports is a transfer (R72). -/
theorem cmdHandshake_iff (p : PinsIn) (s : State) :
    (p.cmdValid = true ∧ (outputs p s).cmdReady = true) ↔ cmdTransfers p s = true := by
  rw [outputs_cmdReady_iff, cmdTransfers_iff]

/-- The item ports present the head item (R73). -/
theorem itemPins_of_cons {p : PinsIn} {s : State} {item : Item} {rest : List Item} (hser : s.ser = item :: rest)
    (hr : p.rst = false) : itemPins p s = item.pins := by
  simp [itemPins, outValid, hser, hr]

/-- A word that transfers is the first of the host's list. -/
theorem cmds_of_cmdTransfers {s : State} (h : cmdTransfers s.pins s = true) :
    s.cmds = s.pins.cmdData :: s.cmds.tail := by
  obtain ⟨hvalid, -, -⟩ := (cmdTransfers_iff _ _).mp h
  cases hc : s.cmds with
  | nil => simp [State.pins, hc] at hvalid
  | cons w ws => simp [State.pins, hc]

/-! ### A clock edge by its event -/

theorem clockEdge_of_cmdTransfers {p : PinsIn} {s : State} (h : cmdTransfers p s = true) :
    clockEdge p s = execWord p.cmdData s := by
  obtain ⟨-, -, hr⟩ := (cmdTransfers_iff p s).mp h
  simp [clockEdge, hr, h]

/-- While items wait, an edge without reset is a serializer step or nothing, as the consumer decides (R300, R457). -/
theorem clockEdge_of_busy {p : PinsIn} {s : State} (hser : s.ser ≠ []) (hr : p.rst = false) :
    clockEdge p s = .next (if p.outReady then serializerStep s else s) := by
  have hc : cmdTransfers p s = false := by simp [cmdTransfers, cmdReady, hser]
  have hi : itemTransfers p s = p.outReady := by simp [itemTransfers, outValid, hser, hr]
  cases ho : p.outReady <;> simp [clockEdge, hr, hc, hi, ho]

theorem sameControl_refl (s : State) : sameControl s s := rfl

theorem serializerStep_of_nil {s : State} (hser : s.ser = []) : serializerStep s = s := by
  simp [serializerStep, hser]

theorem serializerStep_of_cons {s : State} {item : Item} {rest : List Item} (hser : s.ser = item :: rest) :
    serializerStep s = { s with ser := rest, out := s.out ++ [item] } := by
  simp [serializerStep, hser]

/-- A serializer step leaves the table, the mode, the flags and the counters (R300). -/
theorem serializerStep_sameControl (s : State) : sameControl s (serializerStep s) := by
  cases hser : s.ser with
  | nil => rw [serializerStep_of_nil hser]; exact sameControl_refl s
  | cons item rest => rw [serializerStep_of_cons hser]; rfl

/-! ### R72, R73 -/

/-- Settles O9: a transfer is an execution and takes the head of the host's list; while the queue holds items, an edge is
at most a serializer step. -/
theorem commandHandshake : Obligations.CommandHandshake := by
  refine ⟨outputs_cmdReady_iff, fun p s hvalid hready => ?_, fun s t h => ?_, fun p s t hready hr h => ?_⟩
  · exact clockEdge_of_cmdTransfers ((cmdHandshake_iff p s).mp ⟨hvalid, hready⟩)
  · rw [cmdHandshake_iff, step_cmds h, advance_cmds]
    refine ⟨fun hc => ?_, fun hc => if_neg hc⟩
    rw [if_pos hc]
    exact cmds_of_cmdTransfers hc
  · have hser : s.ser ≠ [] := fun hs => by simp [(outputs_cmdReady_iff p s).mpr ⟨hs, hr⟩] at hready
    rw [clockEdge_of_busy hser hr, Host.Outcome.next.injEq] at h
    subst h
    split
    · exact serializerStep_sameControl s
    · exact sameControl_refl s

/-- Settles O10: the item ports are those of the head item, and its transfer is the serializer step. -/
theorem outputHandshake : Obligations.OutputHandshake := by
  refine ⟨outputs_outValid_iff, fun p s b rest hser hr => ?_, fun p s f rest hser hr => ?_,
    fun p s item rest hser hvalid hready => ?_⟩
  · simp [outputs, itemPins_of_cons hser hr, Item.pins]
  · simp [outputs, itemPins_of_cons hser hr, Item.pins]
  · obtain ⟨hne, hr⟩ := (outputs_outValid_iff p s).mp hvalid
    rw [clockEdge_of_busy hne hr, if_pos hready, serializerStep_of_cons hser]

end Sys2Proof.Machine
end
section
/-! SUPPORT. The opcode map by its formats (R101–R107): a row selects a word exactly when the word has the opcode of the
row's mnemonic and zero reserved bits, and the decoder accepts exactly those words. -/

namespace Sys2Proof

/-! ### A word by its fields -/

/-- A word is determined by its five fields (R101–R105). -/
theorem word_eq_iff_fields (v w : Word) :
    v = w ↔ opField v = opField w ∧ kField v = kField w ∧ symField v = symField w ∧ midField v = midField w ∧
      lenField v = lenField w := by
  simp only [← BitVec.toNat_inj, opField_toNat, kField_toNat, symField_toNat, midField_toNat, lenField_toNat]
  omega

theorem restField_eq_zero_iff (w : Word) :
    restField w = 0#28 ↔ kField w = 0#4 ∧ symField w = 0#8 ∧ midField w = 0#8 ∧ lenField w = 0#8 := by
  simp only [← BitVec.toNat_inj, restField_toNat, kField_toNat, symField_toNat, midField_toNat, lenField_toNat,
    BitVec.toNat_ofNat]
  omega

theorem dataField_eq_zero_iff (w : Word) : dataField w = 0#16 ↔ midField w = 0#8 ∧ lenField w = 0#8 := by
  simp only [← BitVec.toNat_inj, dataField_toNat, midField_toNat, lenField_toNat, BitVec.toNat_ofNat]
  omega

/-- A masked word agrees with a pattern field by field. -/
theorem and_eq_iff_fields (w mask pattern : Word) :
    w &&& mask = pattern ↔
      opField w &&& opField mask = opField pattern ∧ kField w &&& kField mask = kField pattern ∧
      symField w &&& symField mask = symField pattern ∧ midField w &&& midField mask = midField pattern ∧
      lenField w &&& lenField mask = lenField pattern := by
  simp only [word_eq_iff_fields, opField, kField, symField, midField, lenField, BitVec.extractLsb'_and]

/-! ### The formats of the mnemonics -/

/-- OP of a mnemonic's words (R107). -/
def Mnemonic.opcode : Mnemonic → BitVec 4
  | .nop => 0x0#4
  | .tblClear => 0x1#4
  | .tblLen => 0x2#4
  | .tblBits => 0x3#4
  | .enc => 0x4#4
  | .flush => 0x5#4
  | .clrStatus => 0x6#4

/-- The reserved bits of a mnemonic's format are 0 in `w` (R102–R105). -/
def Mnemonic.reservedZero (m : Mnemonic) (w : Word) : Prop :=
  match m with
  | .nop | .tblClear | .flush | .clrStatus => restField w = 0#28
  | .tblLen => kField w = 0#4 ∧ midField w = 0#8
  | .tblBits => True
  | .enc => kField w = 0#4 ∧ dataField w = 0#16

/-- A word has the form of a mnemonic: its opcode, with the reserved bits of its format 0 (R102–R107). -/
def Mnemonic.HasForm (m : Mnemonic) (w : Word) : Prop := opField w = m.opcode ∧ m.reservedZero w

/-- A nibble under a full mask is itself. -/
theorem and_nibbleMask (x : BitVec 4) : x &&& 0xF#4 = x := BitVec.and_allOnes

/-- A byte under a full mask is itself. -/
theorem and_byteMask (x : BitVec 8) : x &&& 0xFF#8 = x := BitVec.and_allOnes

/-- A row of the opcode map selects the words of its mnemonic's form (R107): its mask covers OP and the reserved fields of
the format, and no operand field. -/
theorem selects_iff_hasForm {r : OpcodeRow} (hr : r ∈ opcodeRows) (w : Word) :
    r.selects w = true ↔ r.mnemonic.HasForm w := by
  simp only [OpcodeRow.selects, beq_iff_eq, and_eq_iff_fields, Mnemonic.HasForm]
  simp only [opcodeRows, List.mem_cons, List.not_mem_nil, or_false] at hr
  obtain rfl | rfl | rfl | rfl | rfl | rfl | rfl := hr <;>
    simp [Mnemonic.opcode, Mnemonic.reservedZero, restField_eq_zero_iff, dataField_eq_zero_iff, and_nibbleMask,
      and_byteMask, opField, kField, symField, midField, lenField]

/-- The decoder gives a command of a mnemonic exactly for the words of its form (R108). -/
theorem decode_mnemonic_iff (m : Mnemonic) (w : Word) :
    (∃ i, decode w = .instr i ∧ i.mnemonic = m) ↔ m.HasForm w := by
  constructor
  · rintro ⟨i, hd, rfl⟩
    obtain ⟨rfl, h⟩ | ⟨rfl, h⟩ | ⟨rfl, h⟩ | ⟨rfl, h⟩ | ⟨rfl, h⟩ | ⟨rfl, h⟩ | ⟨rfl, h⟩ := decode_eq_instr hd <;>
      simpa [Mnemonic.HasForm, Mnemonic.opcode, Mnemonic.reservedZero, Instr.mnemonic] using h
  · rintro ⟨hop, hres⟩
    cases m <;>
      simp_all [Mnemonic.opcode, Mnemonic.reservedZero, decode, decodeF0, decodeFL, decodeFB, decodeFS, Instr.mnemonic]

/-- The illegal words are those of no mnemonic's form (R108). -/
theorem illegalWord_iff_not_hasForm (w : Word) : Machine.illegalWord w ↔ ∀ m : Mnemonic, ¬ m.HasForm w := by
  simp only [← decode_mnemonic_iff, Machine.illegalWord]
  cases decode w <;> simp

/-! ### The rows -/

/-- Every mnemonic has its row (R107). -/
theorem exists_row (m : Mnemonic) : ∃ r ∈ opcodeRows, r.mnemonic = m := by
  cases m <;> simp [opcodeRows]

theorem opcodeRows_pairwise_ne : opcodeRows.Pairwise (fun a b => a.mnemonic.opcode ≠ b.mnemonic.opcode) := by decide

/-- Settles O3: a row selects the words of its mnemonic's form, the decoder accepts the same words, and the rows' opcodes
differ. -/
theorem opcodeMapSelectsTheDecodedCommand : Obligations.OpcodeMapSelectsTheDecodedCommand := by
  refine ⟨rfl, ?_, fun w r hr => ?_, fun w => ?_⟩
  · refine opcodeRows_pairwise_ne.imp_of_mem fun {a b} ha hb hne w ⟨hsa, hsb⟩ => hne ?_
    exact ((selects_iff_hasForm ha w).mp hsa).1.symm.trans ((selects_iff_hasForm hb w).mp hsb).1
  · rw [selects_iff_hasForm hr, decode_mnemonic_iff]
  · simp only [illegalWord_iff_not_hasForm, ← Bool.not_eq_true]
    constructor
    · intro h r hr
      rw [selects_iff_hasForm hr]
      exact h r.mnemonic
    · intro h m
      obtain ⟨r, hr, rfl⟩ := exists_row m
      rw [← selects_iff_hasForm hr]
      exact h r hr

/-! ### The illegal words as numbers, and their effect -/

/-- An illegal word raises IllegalCommand, whatever its kind (R322). -/
theorem execWord_of_illegalWord {w : Word} (h : Machine.illegalWord w) (s : Machine.State) :
    Machine.execWord w s = .next (Machine.raiseError .ill s) := by
  obtain ⟨r, hd⟩ := h
  simp [Machine.execWord_eq_next, Machine.wordResult, hd]

theorem forall_mnemonic {p : Mnemonic → Prop} :
    (∀ m, p m) ↔ p .nop ∧ p .tblClear ∧ p .tblLen ∧ p .tblBits ∧ p .enc ∧ p .flush ∧ p .clrStatus :=
  ⟨fun h => ⟨h _, h _, h _, h _, h _, h _, h _⟩,
    fun ⟨h0, h1, h2, h3, h4, h5, h6⟩ m => by cases m <;> assumption⟩

/-- Settles O4: a word of no mnemonic's form is one with an opcode of no row, or with a non-zero reserved bit of its
opcode's format. -/
theorem illegalWordsAreTheTwoKinds : Obligations.IllegalWordsAreTheTwoKinds := by
  refine fun w => ⟨?_, fun h s => execWord_of_illegalWord h s⟩
  simp only [illegalWord_iff_not_hasForm, forall_mnemonic, Mnemonic.HasForm, Mnemonic.opcode, Mnemonic.reservedZero,
    ← BitVec.toNat_inj, opField_toNat, kField_toNat, midField_toNat, dataField_toNat, restField_toNat, BitVec.toNat_ofNat,
    and_true]
  omega

end Sys2Proof
end

section
/-! SUPPORT. What `frequencies` returns (R202): its domain, its counts, and sums over an input taken by symbol. -/

namespace Sys2Proof.Ref

/-! ### Lists of pairs as maps -/

section
variable {α β : Type} [DecidableEq α] {l : List (α × β)} {x : α} {y : β}

theorem mem_of_lookup_eq_some (h : l.lookup x = some y) : (x, y) ∈ l := by
  obtain ⟨l₁, l₂, rfl, -⟩ := List.lookup_eq_some_iff.mp h
  simp

/-- In a map, an entry is what the lookup of its key finds. -/
theorem lookup_eq_some_of_mem (hmap : (l.map (·.1)).Nodup) (h : (x, y) ∈ l) : l.lookup x = some y := by
  obtain ⟨l₁, l₂, rfl⟩ := List.append_of_mem h
  refine List.lookup_eq_some_iff.mpr ⟨l₁, l₂, rfl, fun p hp => ?_⟩
  rw [List.map_append, List.nodup_append] at hmap
  have hne : p.1 ≠ x := hmap.2.2 p.1 (List.mem_map_of_mem hp) x (by simp)
  simpa using hne.symm

end

/-! ### The frequency table -/

theorem mem_allSymbols (x : Symbol) : x ∈ allSymbols :=
  List.mem_map.mpr ⟨x.toNat, by simpa using x.isLt, by simp⟩

theorem allSymbols_nodup : allSymbols.Nodup := by
  refine (List.nodup_map_iff_inj_on List.nodup_range).mpr fun m hm n hn h => ?_
  rw [List.mem_range] at hm hn
  simpa [← BitVec.toNat_inj, Nat.mod_eq_of_lt hm, Nat.mod_eq_of_lt hn] using h

theorem frequencies_domain (s : List Symbol) :
    (frequencies s).map (·.1) = allSymbols.filter (fun x => s.contains x) := by
  simp [frequencies, Function.comp_def]

theorem frequencies_domain_nodup (s : List Symbol) : ((frequencies s).map (·.1)).Nodup := by
  rw [frequencies_domain]
  exact allSymbols_nodup.filter _

theorem mem_frequencies_domain {s : List Symbol} {x : Symbol} : x ∈ (frequencies s).map (·.1) ↔ x ∈ s := by
  simp [frequencies_domain, mem_allSymbols]

theorem mem_frequencies {s : List Symbol} {x : Symbol} {n : Nat} :
    (x, n) ∈ frequencies s ↔ x ∈ s ∧ n = s.count x := by
  simp [frequencies, mem_allSymbols, eq_comm]

theorem frequencies_nil : frequencies [] = [] := by simp [frequencies]

theorem frequencies_ne_nil {s : List Symbol} (hs : s ≠ []) : frequencies s ≠ [] := by
  obtain ⟨x, hx⟩ := List.exists_mem_of_ne_nil s hs
  exact List.ne_nil_of_mem (mem_frequencies.mpr ⟨hx, rfl⟩)

theorem frequencies_length_le (s : List Symbol) : (frequencies s).length ≤ 256 := by
  simpa [frequencies, allSymbols] using List.length_filter_le (fun x => s.contains x) allSymbols

/-- A sum over the input, taken by symbol: each symbol's summand counts as often as the symbol occurs. -/
theorem sum_map_eq_sum_frequencies (s : List Symbol) (f : Symbol → Nat) :
    (s.map f).sum = ((frequencies s).map (fun e => e.2 * f e.1)).sum := by
  have hdom : s.toFinset = (allSymbols.filter (fun x => s.contains x)).toFinset := by
    ext x
    simp [mem_allSymbols]
  rw [Finset.sum_list_map_count, hdom, List.sum_toFinset _ (allSymbols_nodup.filter _)]
  simp [frequencies, Function.comp_def]

/-- A frequency table is a map, so `F[x]` is the count that stands beside `x` (R202). -/
theorem freqOf_eq_of_mem {F : FreqTable} (hF : (F.map (·.1)).Nodup) {x : Symbol} {n : Nat} (h : (x, n) ∈ F) :
    freqOf F x = n := by
  rw [freqOf, lookup_eq_some_of_mem hF h, Option.getD_some]

/-- Settles O52: the counts sum to the length because they are the occurrences, summed by symbol. -/
theorem frequenciesCountTheInput : Obligations.FrequenciesCountTheInput := by
  refine ⟨fun s => ⟨frequencies_domain_nodup s, fun x => mem_frequencies_domain, fun x n h => ?_, ?_⟩,
    frequencies_nil⟩
  · obtain ⟨hx, rfl⟩ := mem_frequencies.mp h
    exact ⟨rfl, List.count_pos_iff.mpr hx⟩
  · simpa using (sum_map_eq_sum_frequencies s (fun _ => 1)).symm

end Sys2Proof.Ref
end

section
/-! SUPPORT. What `buildTree` does (R204, R205): its merges as a relation that forgets the fuel and the tie-break, and the
leaves it keeps. -/

namespace Sys2Proof.Ref

/-! ### The candidate of least key -/

theorem leastKey_cons (F : FreqTable) (n x : Node) (ns : List Node) :
    leastKey F n (x :: ns) = leastKey F (if keyLt F x n then x else n) ns := rfl

theorem leastKey_mem (F : FreqTable) (n : Node) (ns : List Node) : leastKey F n ns ∈ n :: ns := by
  induction ns generalizing n with
  | nil => simp [leastKey]
  | cons x ns ih =>
    rw [leastKey_cons]
    split
    · exact List.mem_cons_of_mem n (ih x)
    · exact (List.Sublist.cons_cons n (List.sublist_cons_self x ns)).subset (ih n)

/-- The order of the keys follows the weights (R205). -/
theorem weight_le_of_keyLt {F : FreqTable} {a b : Node} (h : keyLt F a b = true) : a.weight F ≤ b.weight F := by
  simp only [keyLt, Bool.or_eq_true, Bool.and_eq_true, decide_eq_true_eq, beq_iff_eq] at h
  omega

theorem weight_le_of_not_keyLt {F : FreqTable} {a b : Node} (h : ¬ keyLt F a b = true) : b.weight F ≤ a.weight F := by
  simp only [keyLt, Bool.or_eq_true, Bool.and_eq_true, decide_eq_true_eq, beq_iff_eq] at h
  omega

/-- The candidate of least key has the least weight. -/
theorem leastKey_weight_le (F : FreqTable) (n : Node) (ns : List Node) :
    ∀ m ∈ n :: ns, (leastKey F n ns).weight F ≤ m.weight F := by
  induction ns generalizing n with
  | nil => simp [leastKey]
  | cons x ns ih =>
    simp only [List.forall_mem_cons] at ih ⊢
    rw [leastKey_cons]
    split
    case isTrue h =>
      obtain ⟨hx, hns⟩ := ih x
      exact ⟨hx.trans (weight_le_of_keyLt h), hx, hns⟩
    case isFalse h =>
      obtain ⟨hn, hns⟩ := ih n
      exact ⟨hn, hn.trans (weight_le_of_not_keyLt h), hns⟩

/-! ### The merges as a relation -/

/-- The candidates that `buildTree` begins with: a leaf for each symbol (R205). -/
abbrev FreqTable.leafNodes (F : FreqTable) : List Node := F.map (fun e => .leaf e.1)

/-- `Merges F C t`: merging, again and again, two candidates of least weight among `C` leaves the one tree `t`. It is R205
for every tie-break. -/
inductive Merges (F : FreqTable) : List Node → Node → Prop
  | done (n : Node) : Merges F [n] n
  | merge {C rest : List Node} {a b t : Node} (hC : C.Perm (a :: b :: rest)) (hab : a.weight F ≤ b.weight F)
      (hb : ∀ n ∈ rest, b.weight F ≤ n.weight F) (next : Merges F (.internal a b :: rest) t) : Merges F C t

/-- Taking the candidate of least key out of a non-empty list of candidates. -/
theorem perm_leastKey_cons (F : FreqTable) (n : Node) (ns : List Node) :
    (n :: ns).Perm (leastKey F n ns :: (n :: ns).erase (leastKey F n ns)) :=
  List.perm_cons_erase (leastKey_mem F n ns)

/-- The merge loop is such a sequence of merges whenever its fuel allows one merge for each candidate but one. -/
theorem mergeLoop_merges (F : FreqTable) (fuel : Nat) (C : List Node) (hne : C ≠ []) (hlen : C.length ≤ fuel + 1) :
    ∃ t, mergeLoop F fuel C = .ok t ∧ Merges F C t := by
  induction fuel generalizing C with
  | zero =>
    obtain ⟨n, rfl⟩ := List.length_eq_one_iff.mp (Nat.le_antisymm hlen (List.length_pos_iff.mpr hne))
    exact ⟨n, by simp [mergeLoop], .done n⟩
  | succ fuel ih =>
    match C with
    | [n] => exact ⟨n, by simp [mergeLoop], .done n⟩
    | n :: n' :: ns =>
      have hpermA := perm_leastKey_cons F n (n' :: ns)
      have hminA := leastKey_weight_le F n (n' :: ns)
      set a := leastKey F n (n' :: ns) with ha
      obtain ⟨m, ms, herase⟩ := List.exists_cons_of_length_pos (l := (n :: n' :: ns).erase a) (by
        have := hpermA.length_eq
        simp only [List.length_cons] at this
        omega)
      have hpermB := perm_leastKey_cons F m ms
      have hminB := leastKey_weight_le F m ms
      set b := leastKey F m ms with hb
      have hperm : (n :: n' :: ns).Perm (a :: b :: (m :: ms).erase b) := by
        rw [herase] at hpermA
        exact hpermA.trans (hpermB.cons a)
      obtain ⟨t, hloop, hmerges⟩ := ih (.internal a b :: (m :: ms).erase b) (by simp) (by
        have := hperm.length_eq
        simp only [List.length_cons] at this hlen ⊢
        omega)
      refine ⟨t, ?_, .merge hperm ?_ (fun x hx => hminB x (List.mem_of_mem_erase hx)) hmerges⟩
      · simpa [mergeLoop, ← ha, herase, ← hb] using hloop
      · exact hminA b (hperm.mem_iff.mpr (by simp))

/-- `buildTree` of a non-empty table merges the leaves of its symbols. -/
theorem buildTree_merges {F : FreqTable} (hF : F ≠ []) :
    ∃ t, buildTree F = .ok t ∧ Merges F F.leafNodes t :=
  mergeLoop_merges F F.length _ (by simpa using hF) (by simp)

/-- Merging keeps the leaves (R203, R205). -/
theorem Merges.leaves_perm {F : FreqTable} {C : List Node} {t : Node} (h : Merges F C t) :
    t.leaves.Perm (C.flatMap Node.leaves) := by
  induction h with
  | done n => simp
  | merge hC hab hb next ih =>
    exact ih.trans (by simpa [Node.leaves] using (hC.flatMap_right Node.leaves).symm)

/-! ### The table of an input -/

/-- The table of a non-empty input exists, and it is that of a tree merged from the input's symbols (R212). -/
theorem codeTableOf_eq_assignCodes {s : List Symbol} (hs : s ≠ []) :
    ∃ t, codeTableOf s = .ok (assignCodes t) ∧
      Merges (frequencies s) (frequencies s).leafNodes t := by
  obtain ⟨t, hbuild, hmerges⟩ := buildTree_merges (frequencies_ne_nil hs)
  exact ⟨t, by simp [codeTableOf, hbuild], hmerges⟩

theorem ne_nil_of_codeTableOf_eq_ok {s : List Symbol} {ct : CodeTable} (h : codeTableOf s = .ok ct) : s ≠ [] := by
  rintro rfl
  simp [codeTableOf, frequencies_nil, buildTree, mergeLoop] at h

/-- A table built from an input is that of a tree merged from the input's symbols. -/
theorem exists_merges_of_codeTableOf {s : List Symbol} {ct : CodeTable} (h : codeTableOf s = .ok ct) :
    ∃ t, ct = assignCodes t ∧ Merges (frequencies s) (frequencies s).leafNodes t := by
  obtain ⟨t, ht, hmerges⟩ := codeTableOf_eq_assignCodes (ne_nil_of_codeTableOf_eq_ok h)
  exact ⟨t, Except.ok.inj (h.symm.trans ht), hmerges⟩

/-- The leaves of a tree merged from a table's symbols are the symbols. -/
theorem Merges.leaves_perm_domain {F : FreqTable} {t : Node} (h : Merges F F.leafNodes t) :
    t.leaves.Perm (F.map (·.1)) := by
  simpa [List.flatMap_map, Node.leaves, ← List.map_eq_flatMap] using h.leaves_perm

end Sys2Proof.Ref
end

section
/-! SUPPORT. What `assignCodes` does (R209, R210): the symbols of a walk, the incomparability of its codes, and their
lengths. -/

namespace Sys2Proof.Ref

/-! ### The walk -/

theorem walk_domain (n : Node) (p : BitString) : (walk n p).map (·.1) = n.leaves := by
  induction n generalizing p with
  | leaf x => rfl
  | internal l r ihl ihr => simp [walk, Node.leaves, ihl, ihr]

/-- Every code of a walk begins with the path to the node where the walk began. -/
theorem prefix_of_mem_walk {n : Node} {p : BitString} {e : Symbol × BitString} (he : e ∈ walk n p) : p <+: e.2 := by
  induction n generalizing p with
  | leaf x => simp_all [walk]
  | internal l r ihl ihr =>
    obtain h | h := List.mem_append.mp he
    · exact (List.prefix_append p _).trans (ihl h)
    · exact (List.prefix_append p _).trans (ihr h)

/-- Neither bit string begins with the other. -/
def Incomparable (c d : BitString) : Prop := ¬ c <+: d ∧ ¬ d <+: c

theorem Incomparable.symm {c d : BitString} (h : Incomparable c d) : Incomparable d c := And.symm h

theorem Incomparable.ne {c d : BitString} (h : Incomparable c d) : c ≠ d := by
  rintro rfl
  exact h.1 List.prefix_rfl

/-- Codes in the two subtrees of a node differ at the node's bit. -/
theorem incomparable_of_branches {p c d : BitString} (hc : p ++ [false] <+: c) (hd : p ++ [true] <+: d) :
    Incomparable c d := by
  have hne : ∀ x : BitString, p ++ [false] <+: x → ¬ p ++ [true] <+: x := fun x hf ht => by
    simpa using (List.prefix_of_prefix_length_le hf ht (by simp)).eq_of_length (by simp)
  exact ⟨fun h => hne d (hc.trans h) hd, fun h => hne c hc (hd.trans h)⟩

/-- The codes of a walk are pairwise incomparable (R212). -/
theorem walk_pairwise_incomparable (n : Node) (p : BitString) :
    (walk n p).Pairwise (fun a b => Incomparable a.2 b.2) := by
  induction n generalizing p with
  | leaf x => exact List.pairwise_singleton _ _
  | internal l r ihl ihr =>
    exact List.pairwise_append.mpr ⟨ihl _, ihr _,
      fun _ ha _ hb => incomparable_of_branches (prefix_of_mem_walk ha) (prefix_of_mem_walk hb)⟩

theorem leaves_length_pos (n : Node) : 0 < n.leaves.length := by
  induction n with
  | leaf x => simp [Node.leaves]
  | internal l r ihl ihr => simp [Node.leaves, ihl]

/-- A path to a leaf passes fewer internal nodes than the tree has leaves (R214). -/
theorem walk_length_lt {n : Node} {p : BitString} {e : Symbol × BitString} (he : e ∈ walk n p) :
    e.2.length < p.length + n.leaves.length := by
  induction n generalizing p with
  | leaf x => simp_all [walk, Node.leaves]
  | internal l r ihl ihr =>
    have hl := leaves_length_pos l
    have hr := leaves_length_pos r
    simp only [Node.leaves, List.length_append]
    obtain h | h := List.mem_append.mp he
    · have := ihl h
      simp only [List.length_append, List.length_singleton] at this
      omega
    · have := ihr h
      simp only [List.length_append, List.length_singleton] at this
      omega

/-! ### The assigned codes -/

/-- The codes of a tree with two leaves or more are its walk from the root (R209). -/
theorem assignCodes_internal (l r : Node) : assignCodes (.internal l r) = walk (.internal l r) [] := rfl

/-- The code of a single leaf is its walk from below a bit 1 (R210). -/
theorem assignCodes_leaf (x : Symbol) : assignCodes (.leaf x) = walk (.leaf x) [true] := rfl

theorem assignCodes_eq_walk (t : Node) : ∃ p, assignCodes t = walk t p := by
  cases t with
  | leaf x => exact ⟨_, assignCodes_leaf x⟩
  | internal l r => exact ⟨_, assignCodes_internal l r⟩

theorem assignCodes_domain (t : Node) : (assignCodes t).domain = t.leaves := by
  obtain ⟨p, hp⟩ := assignCodes_eq_walk t
  rw [hp, CodeTable.domain, walk_domain]

theorem assignCodes_pairwise_incomparable (t : Node) :
    (assignCodes t).Pairwise (fun a b => Incomparable a.2 b.2) := by
  obtain ⟨p, hp⟩ := assignCodes_eq_walk t
  exact hp ▸ walk_pairwise_incomparable t p

theorem assignCodes_codesNonEmpty (t : Node) : (assignCodes t).codesNonEmpty := by
  intro e he
  cases t with
  | leaf x => exact (prefix_of_mem_walk (n := .leaf x) (p := [true]) he).ne_nil (by simp)
  | internal l r =>
    obtain h | h := List.mem_append.mp he
    · exact (prefix_of_mem_walk h).ne_nil (by simp)
    · exact (prefix_of_mem_walk h).ne_nil (by simp)

theorem assignCodes_codesDistinct (t : Node) : (assignCodes t).codesDistinct = true := by
  simpa [CodeTable.codesDistinct, List.Nodup, List.pairwise_map] using
    (assignCodes_pairwise_incomparable t).imp Incomparable.ne

theorem assignCodes_prefixFree (t : Node) : (assignCodes t).prefixFree := by
  intro a ha b hb hne
  have hsymm : Std.Symm (fun a b : Symbol × BitString => Incomparable a.2 b.2) := ⟨fun _ _ h => h.symm⟩
  exact ((assignCodes_pairwise_incomparable t).forall ha hb (fun h => hne (congrArg _ h))).1

/-- A code of a tree is at most as long as R214 says. -/
theorem assignCodes_length_le {t : Node} {e : Symbol × BitString} (he : e ∈ assignCodes t) :
    e.2.length ≤ max 1 (t.leaves.length - 1) := by
  cases t with
  | leaf x => simp_all [assignCodes]
  | internal l r =>
    have := walk_length_lt (n := .internal l r) (p := []) he
    simp only [List.length_nil] at this
    omega

/-! ### The table of an input -/

/-- The table of a merged tree is a map whose domain is the frequency table's (R212). -/
theorem Merges.domain_perm {F : FreqTable} {t : Node} (h : Merges F F.leafNodes t) :
    (assignCodes t).domain.Perm (F.map (·.1)) := by
  rw [assignCodes_domain]
  exact h.leaves_perm_domain

theorem Merges.isMap {F : FreqTable} {t : Node} (h : Merges F F.leafNodes t)
    (hF : (F.map (·.1)).Nodup) : (assignCodes t).isMap :=
  h.domain_perm.nodup_iff.mpr hF

/-- Settles O54: the leaves of the merged tree are the input's symbols, and its codes are paths to distinct leaves. -/
theorem builtTablesArePrefixFree : Obligations.BuiltTablesArePrefixFree := by
  intro s hs
  obtain ⟨t, ht, hmerges⟩ := codeTableOf_eq_assignCodes hs
  exact ⟨assignCodes t, ht, hmerges.isMap (frequencies_domain_nodup s),
    fun x => hmerges.domain_perm.mem_iff.trans mem_frequencies_domain, assignCodes_codesNonEmpty t,
    assignCodes_codesDistinct t, assignCodes_prefixFree t⟩

/-- Settles O55: a path of a tree with `n` leaves passes at most `n - 1` internal nodes, and there are 256 symbols. -/
theorem builtCodesAreShort : Obligations.BuiltCodesAreShort := by
  intro s ct hct e he
  obtain ⟨t, rfl, hmerges⟩ := exists_merges_of_codeTableOf hct
  have hlen := hmerges.leaves_perm_domain.length_eq
  have hcode := assignCodes_length_le he
  have hle := frequencies_length_le s
  rw [List.length_map] at hlen
  omega

end Sys2Proof.Ref
end

section
/-! SUPPORT. Weights with levels: the Kraft sum of levels, and the exchange step that makes greedy merging optimal (R213).
A list of pairs (weight, level) stands for the candidates of R205, each with the length of a code for it. -/

namespace Sys2Proof.Ref

/-! ### The Kraft sum -/

/-- The levels leave room for a binary code. -/
def Kraft (levels : List Nat) : Prop := (levels.map (fun l => (1 / 2 : ℝ) ^ l)).sum ≤ 1

theorem Kraft.perm {ls ls' : List Nat} (h : Kraft ls) (hp : ls'.Perm ls) : Kraft ls' :=
  ((hp.map _).sum_eq).trans_le h

/-- Up to the factor `2 ^ k`, the Kraft sum of levels of at most `k` is a whole number. -/
theorem exists_nat_kraftSum {ls : List Nat} {k : Nat} (hk : ∀ l ∈ ls, l ≤ k) :
    ∃ N : Nat, (ls.map (fun l => (1 / 2 : ℝ) ^ l)).sum * 2 ^ k = N := by
  refine ⟨(ls.map (fun l => 2 ^ (k - l))).sum, ?_⟩
  induction ls with
  | nil => simp
  | cons l ls ih =>
    obtain ⟨hl, hls⟩ := List.forall_mem_cons.mp hk
    have hpow : (1 / 2 : ℝ) ^ l * 2 ^ k = 2 ^ (k - l) := by
      rw [← Nat.sub_add_cancel hl, pow_add, Nat.add_sub_cancel, mul_left_comm, ← mul_pow]
      norm_num
    simp only [List.map_cons, List.sum_cons, add_mul, ih hls, hpow]
    push_cast
    rfl

/-- One level may be lowered to the greatest of the others: the rest of the Kraft sum is a multiple of `2 ^ -k` below 1. -/
theorem Kraft.lower_head {m k : Nat} {ls : List Nat} (h : Kraft (m :: ls)) (hk : ∀ l ∈ ls, l ≤ k) : Kraft (k :: ls) := by
  obtain ⟨N, hN⟩ := exists_nat_kraftSum hk
  simp only [Kraft, List.map_cons, List.sum_cons] at h ⊢
  have hm : (0 : ℝ) < (1 / 2) ^ m := by positivity
  have hk : (0 : ℝ) < 2 ^ k := by positivity
  have hlt : (N : ℝ) < (2 ^ k : Nat) := by
    rw [← hN]
    push_cast
    nlinarith
  have hle : (N : ℝ) + 1 ≤ 2 ^ k := by
    exact_mod_cast Nat.cast_lt.mp hlt
  rw [one_div_pow, ← mul_le_mul_iff_left₀ hk, add_mul, hN, one_div_mul_cancel hk.ne']
  linarith

/-- Two levels `k` make room for one level `k - 1`; in particular they are not 0. -/
theorem Kraft.merge {k : Nat} {ls : List Nat} (h : Kraft (k :: k :: ls)) : ∃ j, k = j + 1 ∧ Kraft (j :: ls) := by
  simp only [Kraft, List.map_cons, List.sum_cons] at h ⊢
  cases k with
  | zero =>
    have : 0 ≤ (ls.map (fun l => (1 / 2 : ℝ) ^ l)).sum :=
      List.sum_nonneg (by simp only [List.forall_mem_map]; intros; positivity)
    norm_num at h
    linarith
  | succ j =>
    refine ⟨j, rfl, ?_⟩
    rw [pow_succ] at h
    linarith

/-! ### The exchange step -/

/-- The weighted sum of the levels. -/
def levelCost (P : List (Nat × Nat)) : Nat := (P.map (fun e => e.1 * e.2)).sum

theorem levelCost_cons (w l : Nat) (P : List (Nat × Nat)) : levelCost ((w, l) :: P) = w * l + levelCost P := by
  simp [levelCost]

theorem levelCost_perm {P Q : List (Nat × Nat)} (h : P.Perm Q) : levelCost P = levelCost Q :=
  (h.map _).sum_eq

/-- The levels can be handed round so that the first weight, a least one, has the greatest level `m`, at no more cost. -/
theorem exists_greatest_level_first (w l : Nat) (R : List (Nat × Nat)) (hw : ∀ x ∈ R.map (·.1), w ≤ x) :
    ∃ m R', R'.map (·.1) = R.map (·.1) ∧ (m :: R'.map (·.2)).Perm (l :: R.map (·.2)) ∧
      (∀ k ∈ l :: R'.map (·.2), k ≤ m) ∧ levelCost ((w, m) :: R') ≤ levelCost ((w, l) :: R) := by
  induction R generalizing l with
  | nil => exact ⟨l, [], rfl, .rfl, by simp, le_rfl⟩
  | cons e R ih =>
    obtain ⟨x, k⟩ := e
    obtain ⟨hx, hR⟩ := List.forall_mem_cons.mp hw
    obtain hkl | hlk := le_total k l
    · obtain ⟨m, R', hfst, hperm, hmax, hcost⟩ := ih l hR
      refine ⟨m, (x, k) :: R', by simp [hfst], ?_, ?_, ?_⟩
      · exact (List.Perm.swap _ _ _).trans ((hperm.cons k).trans (.swap _ _ _))
      · simp only [List.map_cons, List.forall_mem_cons] at hmax ⊢
        exact ⟨hmax.1, hkl.trans hmax.1, hmax.2⟩
      · simp only [levelCost_cons] at hcost ⊢
        omega
    · obtain ⟨m, R', hfst, hperm, hmax, hcost⟩ := ih k hR
      refine ⟨m, (x, l) :: R', by simp [hfst], ?_, ?_, ?_⟩
      · exact (List.Perm.swap _ _ _).trans (hperm.cons l)
      · simp only [List.map_cons, List.forall_mem_cons] at hmax ⊢
        exact ⟨hlk.trans hmax.1, hlk.trans hmax.1, hmax.2⟩
      · have hswap : w * k + x * l ≤ w * l + x * k := by nlinarith
        simp only [levelCost_cons] at hcost ⊢
        omega

/-- Levels for candidates with two least weights `a` and `b` give levels for the candidates after the merge, cheaper by the
weight of the merged node. -/
theorem exists_levels_of_merge {a b la lb : Nat} {R : List (Nat × Nat)} (hab : a ≤ b) (hb : ∀ x ∈ R.map (·.1), b ≤ x)
    (hK : Kraft (la :: lb :: R.map (·.2))) :
    ∃ k R', R'.map (·.1) = R.map (·.1) ∧ Kraft (k :: R'.map (·.2)) ∧
      a + b + levelCost ((a + b, k) :: R') ≤ levelCost ((a, la) :: (b, lb) :: R) := by
  obtain ⟨m, R₁, hfst₁, hperm₁, hmax₁, hcost₁⟩ := exists_greatest_level_first a la ((b, lb) :: R)
    (List.forall_mem_cons.mpr ⟨hab, fun x hx => hab.trans (hb x hx)⟩)
  obtain ⟨⟨b, lb'⟩, R₁, rfl, rfl, hrest₁⟩ := List.map_eq_cons_iff.mp hfst₁
  obtain ⟨k, R₂, hfst₂, hperm₂, hmax₂, hcost₂⟩ := exists_greatest_level_first b lb' R₁ (hrest₁ ▸ hb)
  have hkm : k ≤ m := hmax₁ k (List.mem_cons_of_mem _ (hperm₂.subset (by simp)))
  have hK₂ : Kraft (m :: k :: R₂.map (·.2)) := hK.perm ((hperm₂.cons m).trans hperm₁)
  obtain ⟨j, rfl, hKj⟩ := (hK₂.lower_head (List.forall_mem_cons.mpr ⟨le_rfl, (List.forall_mem_cons.mp hmax₂).2⟩)).merge
  refine ⟨j, R₂, hfst₂.trans hrest₁, hKj, ?_⟩
  have := Nat.mul_le_mul_left a hkm
  simp only [levelCost_cons] at hcost₁ hcost₂ ⊢
  linarith

end Sys2Proof.Ref
end

section
/-! SUPPORT. Optimality (R213): the cost of a merged tree is at most that of every assignment of levels with room for a code,
and the codes of any table without a code that begins another have such levels. -/

namespace Sys2Proof.Ref

/-! ### The cost of a tree -/

/-- The weights of the internal nodes, summed: the weighted sum of the depths of the leaves. -/
def Node.cost (F : FreqTable) : Node → Nat
  | .leaf _ => 0
  | .internal l r => l.weight F + r.weight F + (l.cost F + r.cost F)

/-- The weighted code lengths of a walk are the tree's cost, with the length of the path before it for each leaf. -/
theorem sum_freqOf_mul_length_walk (F : FreqTable) (n : Node) (p : BitString) :
    ((walk n p).map (fun e => freqOf F e.1 * e.2.length)).sum = n.weight F * p.length + n.cost F := by
  induction n generalizing p with
  | leaf x => simp [walk, Node.weight, Node.cost]
  | internal l r ihl ihr =>
    simp only [walk, List.map_append, List.sum_append, ihl, ihr, Node.weight, Node.cost, List.length_append,
      List.length_singleton]
    ring

/-- A list that is the image of `P` up to order is the image of `P` in another order. -/
theorem exists_perm_map_eq {α β : Type} {f : α → β} {l : List β} {P : List α} (h : l.Perm (P.map f)) :
    ∃ Q : List α, Q.Perm P ∧ Q.map f = l := by
  obtain ⟨Q, hl, hQ⟩ := (congrFun₂ (List.eq_map_comp_perm f) l P).mpr h
  exact ⟨Q, hQ, hl.symm⟩

/-- Merging two candidates of least weight again and again gives a tree no dearer than any levels of the candidates. -/
theorem Merges.cost_le {F : FreqTable} {C : List Node} {t : Node} (h : Merges F C t) {P : List (Nat × Nat)}
    (hP : (C.map (·.weight F)).Perm (P.map (·.1))) (hK : Kraft (P.map (·.2))) :
    t.cost F ≤ (C.map (·.cost F)).sum + levelCost P := by
  induction h generalizing P with
  | done n => simp
  | @merge C rest a b t hC hab hb next ih =>
    obtain ⟨Q, hQP, hQ⟩ := exists_perm_map_eq ((hC.map (·.weight F)).symm.trans hP)
    obtain ⟨⟨wa, la⟩, Q, rfl, rfl, hrest⟩ := List.map_eq_cons_iff.mp hQ
    obtain ⟨⟨wb, lb⟩, R, rfl, rfl, hR⟩ := List.map_eq_cons_iff.mp hrest
    have hlevels : Kraft (la :: lb :: R.map (·.2)) := hK.perm (hQP.map Prod.snd)
    obtain ⟨k, R', hfst, hK', hcost⟩ := exists_levels_of_merge hab
      (by rw [hR, List.forall_mem_map]; exact hb) hlevels
    have hmin := ih (P := (a.weight F + b.weight F, k) :: R') (by simp [Node.weight, hfst, hR]) hK'
    have hsum := (hC.map (·.cost F)).sum_eq
    simp only [List.map_cons, List.sum_cons, Node.cost, ← levelCost_perm hQP] at hmin hsum ⊢
    omega

/-! ### Codes as levels: the Kraft inequality -/

/-- A code whose words are non-empty, none of them the beginning of another, is uniquely decodable. -/
theorem uniquelyDecodable_of_prefixFree {S : Set BitString} (hne : ∀ c ∈ S, c ≠ [])
    (hpre : ∀ c ∈ S, ∀ d ∈ S, c <+: d → c = d) : InformationTheory.UniquelyDecodable S := by
  intro L₁
  induction L₁ with
  | nil =>
    rintro (_ | ⟨d, L₂⟩) - h₂ heq
    · rfl
    · exact absurd (List.append_eq_nil_iff.mp heq.symm).1 (hne d (h₂ d (by simp)))
  | cons c L₁ ih =>
    rintro (_ | ⟨d, L₂⟩) h₁ h₂ heq
    · exact absurd (List.append_eq_nil_iff.mp heq).1 (hne c (h₁ c (by simp)))
    · simp only [List.forall_mem_cons] at h₁ h₂
      rw [List.flatten_cons, List.flatten_cons] at heq
      obtain rfl : c = d := by
        obtain h | h := List.prefix_or_prefix_of_prefix (heq ▸ List.prefix_append c _) (List.prefix_append d _)
        · exact hpre c h₁.1 d h₂.1 h
        · exact (hpre d h₂.1 c h₁.1 h).symm
      rw [ih L₂ h₁.2 h₂.2 (List.append_cancel_left heq)]

/-- The code of a symbol, empty where the table has none. -/
def CodeTable.codeOf (ct : CodeTable) (x : Symbol) : BitString := (ct.lookup x).getD []

theorem CodeTable.codeOf_mem {ct : CodeTable} {x : Symbol} (h : (ct.lookup x).isSome = true) : (x, ct.codeOf x) ∈ ct := by
  obtain ⟨c, hc⟩ := Option.isSome_iff_exists.mp h
  rw [CodeTable.codeOf, hc]
  exact mem_of_lookup_eq_some hc

theorem CodeTable.codeOf_eq_of_mem {ct : CodeTable} (hmap : ct.isMap) {e : Symbol × BitString} (he : e ∈ ct) :
    ct.codeOf e.1 = e.2 := by
  rw [CodeTable.codeOf, lookup_eq_some_of_mem hmap he, Option.getD_some]

/-- The code lengths of a table in which no code begins another leave room for a binary code: the Kraft inequality. -/
theorem kraft_of_prefixFree {ct : CodeTable} (hne : ct.codesNonEmpty) (hpre : ct.prefixFree) {xs : List Symbol}
    (hnodup : xs.Nodup) (hxs : ∀ x ∈ xs, (ct.lookup x).isSome = true) : Kraft (xs.map (fun x => (ct.codeOf x).length)) := by
  have hsymbol : ∀ x ∈ xs, ∀ y ∈ xs, ct.codeOf x <+: ct.codeOf y → x = y := fun x hx y hy h =>
    by_contra fun hxy => hpre _ (CodeTable.codeOf_mem (hxs x hx)) _ (CodeTable.codeOf_mem (hxs y hy)) hxy h
  have hcodes : (xs.map ct.codeOf).Nodup :=
    (List.nodup_map_iff_inj_on hnodup).mpr fun x hx y hy h => hsymbol x hx y hy (h ▸ List.prefix_rfl)
  have hdec : InformationTheory.UniquelyDecodable ((xs.map ct.codeOf).toFinset : Set BitString) := by
    apply uniquelyDecodable_of_prefixFree <;> simp only [List.coe_toFinset, Set.mem_ofPred_eq, List.forall_mem_map]
    · exact fun x hx => hne _ (CodeTable.codeOf_mem (hxs x hx))
    · exact fun x hx y hy h => congrArg ct.codeOf (hsymbol x hx y hy h)
  have := InformationTheory.kraft_mcmillan_inequality hdec
  rw [List.sum_toFinset _ hcodes] at this
  simpa [Kraft, Function.comp_def] using this

/-! ### The encoded length -/

/-- An input over the table's symbols is encoded as its codes, one after the other (R273). -/
theorem encode_eq_flatMap {ct : CodeTable} {s : List Symbol} (hs : ∀ x ∈ s, (ct.lookup x).isSome = true) :
    encode ct s = .ok (s.flatMap ct.codeOf) := by
  induction s with
  | nil => rfl
  | cons x s ih =>
    obtain ⟨hx, hs⟩ := List.forall_mem_cons.mp hs
    obtain ⟨c, hc⟩ := Option.isSome_iff_exists.mp hx
    simp [encode, hc, ih hs, CodeTable.codeOf]

theorem encodedLength_eq_sum (s : List Symbol) (ct : CodeTable) :
    encodedLength s ct = (s.map (fun x => (ct.codeOf x).length)).sum := rfl

/-- The encoded length is the sum of count times code length (R213). -/
theorem encodedLength_eq_sum_frequencies (s : List Symbol) (ct : CodeTable) :
    encodedLength s ct = ((frequencies s).map (fun e => e.2 * (ct.codeOf e.1).length)).sum :=
  sum_map_eq_sum_frequencies s _

/-- The encoded length as a sum over the table, for a table whose domain is the input's symbols. -/
theorem encodedLength_eq_sum_table {s : List Symbol} {ct : CodeTable} (hmap : ct.isMap)
    (hdom : ct.domain.Perm ((frequencies s).map (·.1))) :
    encodedLength s ct = (ct.map (fun e => freqOf (frequencies s) e.1 * e.2.length)).sum := by
  have hct : ct.map (fun e => freqOf (frequencies s) e.1 * e.2.length) =
      ct.domain.map (fun x => freqOf (frequencies s) x * (ct.codeOf x).length) := by
    rw [CodeTable.domain, List.map_map]
    exact List.map_congr_left fun e he => by simp [CodeTable.codeOf_eq_of_mem hmap he]
  rw [encodedLength_eq_sum_frequencies, hct, (hdom.map _).sum_eq, List.map_map]
  congr 1
  exact List.map_congr_left fun e he => by simp [freqOf_eq_of_mem (frequencies_domain_nodup s) he]

/-- The encoded length under a merged tree with two leaves or more is the tree's cost. -/
theorem encodedLength_assignCodes_internal {s : List Symbol} {l r : Node}
    (h : Merges (frequencies s) (frequencies s).leafNodes (.internal l r)) :
    encodedLength s (assignCodes (.internal l r)) = (Node.internal l r).cost (frequencies s) := by
  rw [encodedLength_eq_sum_table (h.isMap (frequencies_domain_nodup s)) h.domain_perm, assignCodes_internal,
    sum_freqOf_mul_length_walk]
  simp

/-- The cost of a merged tree is at most the encoded length under any table with the input's symbols in which no code
begins another. -/
theorem Merges.cost_le_encodedLength {s : List Symbol} {t : Node}
    (h : Merges (frequencies s) (frequencies s).leafNodes t) {ct : CodeTable}
    (hne : ct.codesNonEmpty) (hpre : ct.prefixFree) (hs : ∀ x ∈ s, (ct.lookup x).isSome = true) :
    t.cost (frequencies s) ≤ encodedLength s ct := by
  have hweights : ∀ e ∈ frequencies s, (Node.leaf e.1).weight (frequencies s) = e.2 := fun e he =>
    freqOf_eq_of_mem (frequencies_domain_nodup s) he
  have hK := kraft_of_prefixFree hne hpre (frequencies_domain_nodup s) fun x hx => hs x (mem_frequencies_domain.mp hx)
  have hle := h.cost_le (P := (frequencies s).map (fun e => (e.2, (ct.codeOf e.1).length)))
    (by simp [Function.comp_def, List.map_congr_left hweights]) (by simpa [Function.comp_def] using hK)
  simpa [encodedLength_eq_sum_frequencies, levelCost, Node.cost, Function.comp_def] using hle

/-- The one code of a single leaf is no longer than any other table's codes (R210). -/
theorem encodedLength_assignCodes_leaf_le {s : List Symbol} (x : Symbol) {ct : CodeTable} (hne : ct.codesNonEmpty)
    (hs : ∀ x ∈ s, (ct.lookup x).isSome = true) : encodedLength s (assignCodes (.leaf x)) ≤ encodedLength s ct := by
  refine List.sum_le_sum fun y hy => ?_
  have hpos : 0 < (ct.codeOf y).length := List.length_pos_iff.mpr (hne _ (CodeTable.codeOf_mem (hs y hy)))
  have hone : ((assignCodes (.leaf x)).codeOf y).length ≤ 1 := by
    cases h : (y == x) <;> simp [CodeTable.codeOf, assignCodes, List.lookup_cons, h]
  exact hone.trans hpos

/-- Settles O56: a single leaf has the shortest code there is; a tree of two leaves or more costs no more than any levels
with room for a code (`Merges.cost_le`, by induction on the merges), and the other table's code lengths are such levels. -/
theorem builtTablesAreOptimal : Obligations.BuiltTablesAreOptimal := by
  intro s ct hct
  obtain ⟨t, rfl, hmerges⟩ := exists_merges_of_codeTableOf hct
  refine ⟨⟨_, encode_eq_flatMap fun x hx => ?_, ?_⟩, encodedLength_eq_sum_frequencies s _,
    fun other _ hne hpre hs => ?_⟩
  · have hdom : x ∈ (assignCodes t).domain := hmerges.domain_perm.mem_iff.mpr (mem_frequencies_domain.mpr hx)
    obtain ⟨e, he, rfl⟩ := List.mem_map.mp hdom
    rw [lookup_eq_some_of_mem (hmerges.isMap (frequencies_domain_nodup s)) he, Option.isSome_some]
  · rw [List.length_flatMap, encodedLength_eq_sum]
  · cases t with
    | leaf x => exact encodedLength_assignCodes_leaf_le x hne hs
    | internal l r =>
      rw [encodedLength_assignCodes_internal hmerges]
      exact hmerges.cost_le_encodedLength hne hpre hs

end Sys2Proof.Ref
end

section
/-! SUPPORT. The words of commands: the operand fields by value, the words of TBL_LEN and TBL_BITS (R103, R104), and the
decoder on an encoded command (R108). -/

namespace Sys2Proof

/-! ### Operand fields by value -/

theorem kField_eq_ofNat (w : Word) : kField w = BitVec.ofNat 4 (w.toNat / 2 ^ 24) :=
  BitVec.eq_of_toNat_eq (by rw [kField_toNat, BitVec.toNat_ofNat])

theorem symField_eq_ofNat (w : Word) : symField w = BitVec.ofNat 8 (w.toNat / 2 ^ 16) :=
  BitVec.eq_of_toNat_eq (by rw [symField_toNat, BitVec.toNat_ofNat])

theorem lenField_eq_ofNat (w : Word) : lenField w = BitVec.ofNat 8 w.toNat :=
  BitVec.eq_of_toNat_eq (by rw [lenField_toNat, BitVec.toNat_ofNat])

theorem dataField_eq_ofNat (w : Word) : dataField w = BitVec.ofNat 16 w.toNat :=
  BitVec.eq_of_toNat_eq (by rw [dataField_toNat, BitVec.toNat_ofNat])

/-! ### The words of TBL_LEN and TBL_BITS -/

/-- A word that agrees with a row's pattern under its mask has the form of the row's mnemonic (R107). -/
theorem hasForm_of_masked {r : OpcodeRow} (hr : r ∈ opcodeRows) {w : Word} (h : w &&& r.mask = r.pattern) :
    r.mnemonic.HasForm w :=
  (selects_iff_hasForm hr w).mp (beq_iff_eq.mpr h)

theorem decode_tblLen {w : Word} (h : Mnemonic.tblLen.HasForm w) :
    decode w = .instr (.tblLen (symField w) (lenField w)) := by
  obtain ⟨hop, hk, hmid⟩ := h
  simp [decode, decodeFL, hop, Mnemonic.opcode, hk, hmid]

theorem decode_tblBits {w : Word} (h : Mnemonic.tblBits.HasForm w) :
    decode w = .instr (.tblBits (kField w) (symField w) (dataField w)) := by
  obtain ⟨hop, -⟩ := h
  simp [decode, decodeFB, hop, Mnemonic.opcode]

/-! ### Encoded commands -/

/-- The decoder reads every command back from its word, field by field (R108). -/
theorem decode_encode (i : Instr) : decode (encode i) = .instr i := by
  cases i with
  | nop | tblClear | flush | clrStatus => rfl
  | tblLen | tblBits | enc =>
    simp (disch := omega) [decode, decodeFL, decodeFB, decodeFS, encode, opField, kField, symField, midField, lenField,
      dataField, BitVec.extractLsb'_or, Machine.extractLsb'_place_same, Machine.extractLsb'_place_beside]

end Sys2Proof
end

section
/-! SUPPORT. The table commands (R240-R243): the guard in each mode, and what a write to the table leaves. -/

namespace Sys2Proof.Machine

/-! ### The table guard (R240) -/

theorem tableGuard_of_idle (effect : State → State) {s : State} (hm : s.mode = .idle) :
    tableGuard effect s = effect s := by
  rw [tableGuard, hm]

theorem tableGuard_of_stream (effect : State → State) {s : State} (hm : s.mode = .stream) :
    tableGuard effect s = raiseError .tbl s := by
  rw [tableGuard, hm]

theorem tableGuard_of_error (effect : State → State) {s : State} (hm : s.mode = .error) :
    tableGuard effect s = discard s := by
  rw [tableGuard, hm]

/-- In mode STREAM a table command raises TableWriteInStream. -/
theorem exec_tableCommand_of_stream {i : Instr} (hi : isTableCommand i = true) {s : State} (hm : s.mode = .stream) :
    exec i s = .next { s with errTbl := true, mode := .error } := by
  rw [exec_eq_next]
  cases i with
  | tblClear | tblLen | tblBits => rw [resultOf, tableGuard_of_stream _ hm]; rfl
  | nop | enc | flush | clrStatus => cases hi

/-- In mode ERROR a table command is discarded. -/
theorem exec_tableCommand_of_error {i : Instr} (hi : isTableCommand i = true) {s : State} (hm : s.mode = .error) :
    exec i s = .next { s with dropCount := s.dropCount + 1#32 } := by
  rw [exec_eq_next]
  cases i with
  | tblClear | tblLen | tblBits => rw [resultOf, tableGuard_of_error _ hm]; rfl
  | nop | enc | flush | clrStatus => cases hi

theorem resultOf_tblClear_of_idle {s : State} (hm : s.mode = .idle) : resultOf .tblClear s = s.clearLens := by
  rw [resultOf, tableGuard_of_idle _ hm]

theorem resultOf_tblLen_of_idle (sym : Symbol) (len : BitVec 8) {s : State} (hm : s.mode = .idle) :
    resultOf (.tblLen sym len) s = s.setEntry sym (Entry.ofLen len) := by
  rw [resultOf, tableGuard_of_idle _ hm]

theorem resultOf_tblBits_of_idle (k : BitVec 4) (sym : Symbol) (data : BitVec 16) {s : State} (hm : s.mode = .idle) :
    resultOf (.tblBits k sym data) s = s.setEntry sym ((s.entry sym).withChunk k data) := by
  rw [resultOf, tableGuard_of_idle _ hm]

/-! ### The writes -/

theorem sameExceptTable_setEntry (s : State) (sym : Symbol) (e : Entry) : sameExceptTable s (s.setEntry sym e) := rfl

theorem sameExceptTable_clearLens (s : State) : sameExceptTable s s.clearLens := rfl

/-- After TBL_CLEAR no entry is valid (R48, R241). -/
theorem nvalid_clearLens (s : State) : s.clearLens.nvalid = 0 := by
  simp [nvalid_eq_countP]

/-- The code TBL_LEN leaves (R242). -/
theorem ofLen_code (len : BitVec 8) : (Entry.ofLen len).code = List.replicate len.toNat false :=
  List.eq_replicate_iff.mpr ⟨by simp, by simp [Entry.code]⟩

/-- ENC of an invalid entry misses, unless mode ERROR discards it (R270). -/
theorem exec_enc_of_invalid {sym : Symbol} {s : State} (hm : s.mode ≠ .error) (hl : (s.entry sym).len = 0#8) :
    exec (.enc sym) s = .next (raiseError (.snf sym) s) := by
  simp [exec_eq_next, resultOf, hm, hl]

/-! ### R241, R242, R243 -/

/-- Settles O16: the write of TBL_CLEAR behind the guard, and the illegal words by their numbers (R109). -/
theorem tblClearInvalidatesEveryEntry : Obligations.TblClearInvalidatesEveryEntry := by
  refine ⟨fun s hm => ?_, fun s => exec_tableCommand_of_stream rfl, fun s => exec_tableCommand_of_error rfl, rfl,
    fun w hop hne => ?_⟩
  · refine ⟨s.clearLens, ?_, sameExceptTable_clearLens s, fun sym => by simp, ?_⟩
    · rw [exec_eq_next, resultOf_tblClear_of_idle hm]
    · show CsrResp.ok (BitVec.ofNat 32 s.clearLens.nvalid) = _
      rw [nvalid_clearLens, CsrResp.ok]
  · have hw : w.toNat ≠ 0x10000000 := fun h => hne (BitVec.eq_of_toNat_eq h)
    exact (illegalWordsAreTheTwoKinds w).1.mpr (by omega)

/-- Settles O17: the write of TBL_LEN behind the guard, the form of its words, and the illegal words by their
numbers (R109). -/
theorem tblLenSetsLengthAndZeroesCells : Obligations.TblLenSetsLengthAndZeroesCells := by
  refine ⟨fun sym len s => ⟨fun hm => ?_, exec_tableCommand_of_stream rfl, exec_tableCommand_of_error rfl⟩,
    fun w hw => ?_, fun w hop hres => ?_⟩
  · refine ⟨s.setEntry sym (Entry.ofLen len), ?_, sameExceptTable_setEntry .., by simp, by simp, by simp [ofLen_code],
      fun hlen => ?_, fun x hx => entry_setEntry_other s _ hx⟩
    · rw [exec_eq_next, resultOf_tblLen_of_idle sym len hm]
    · exact exec_enc_of_invalid (by simp [hm]) (by simp [hlen])
  · have hform := hasForm_of_masked (r := ⟨.tblLen, 0x20000000, 0xFF00FF00⟩) (by decide) hw
    rw [decode_tblLen hform, symField_eq_ofNat, lenField_eq_ofNat]
  · exact (illegalWordsAreTheTwoKinds w).1.mpr (.inr (.inr (.inl ⟨hop, hres⟩)))

/-- Settles O18: the write of TBL_BITS behind the guard, with the cells by `withChunk_cell`, and the form of its words. -/
theorem tblBitsWritesSixteenCells : Obligations.TblBitsWritesSixteenCells := by
  refine ⟨fun k sym data s => ⟨fun hm => ?_, exec_tableCommand_of_stream rfl, exec_tableCommand_of_error rfl⟩,
    fun w hw => ?_⟩
  · refine ⟨s.setEntry sym ((s.entry sym).withChunk k data), ?_, sameExceptTable_setEntry .., by simp, fun j hj => ?_,
      fun i _ hi => ?_, fun x hx => entry_setEntry_other s _ hx, fun c j _ hlen => ?_⟩
    · rw [exec_eq_next, resultOf_tblBits_of_idle k sym data hm]
    · rw [entry_setEntry_same, withChunk_cell, if_pos (by omega), Nat.add_sub_cancel_left]
    · rw [entry_setEntry_same, withChunk_cell, if_neg (by omega)]
    · rw [chunk_getLsbD, decide_eq_false (Nat.not_lt.mpr hlen), Bool.false_and, Bool.and_false]
  · have hform := hasForm_of_masked (r := ⟨.tblBits, 0x30000000, 0xF0000000⟩) (by decide) hw
    rw [decode_tblBits hform, kField_eq_ofNat, symField_eq_ofNat, dataField_eq_ofNat]

end Sys2Proof.Machine
end

section
/-! SUPPORT. Loading one entry (R112, R244): a list of words executed as a list of commands, and the cells of an entry after
its chunks. -/

namespace Sys2Proof.Machine

/-! ### Words of commands, executed in order -/

theorem runWords_cons (w : Word) (ws : List Word) (s : State) : runWords (w :: ws) s = runWords ws (wordResult w s) := by
  simp only [runWords, execWord_eq_next]

/-- The words of commands have the effects of the commands, one after the other. -/
theorem runWords_wordsOf_cons (i : Instr) (is : List Instr) (s : State) :
    runWords (wordsOf (i :: is)) s = runWords (wordsOf is) (resultOf i s) := by
  rw [wordsOf, List.map_cons, runWords_cons, wordResult, decode_encode]
  rfl

/-! ### Two writes to one entry -/

theorem setEntry_entry (s : State) (sym : Symbol) : s.setEntry sym (s.entry sym) = s := by
  simp [State.setEntry, State.entry]

theorem setEntry_setEntry (s : State) (sym : Symbol) (e e' : Entry) :
    (s.setEntry sym e).setEntry sym e' = s.setEntry sym e' := by
  simp [State.setEntry]

/-! ### The chunks of a code -/

/-- A sum of powers of two is the number with those bits. -/
theorem sum_two_pow_eq_ofBits (f : Nat → Bool) (n : Nat) :
    ((List.range n).map (fun j => if f j then 2 ^ j else 0)).sum = Nat.ofBits (fun i : Fin n => f i) := by
  induction n generalizing f with
  | zero => rfl
  | succ n ih =>
    have hdouble : ∀ j, (if f (j + 1) then 2 ^ (j + 1) else 0) = 2 * (if f (j + 1) then 2 ^ j else 0) := fun j => by
      split <;> ring
    rw [List.range_succ_eq_map, List.map_cons, List.sum_cons, List.map_map, Nat.ofBits_succ]
    simp only [Function.comp_def, Nat.succ_eq_add_one, hdouble, List.sum_map_mul_left, ih (fun j => f (j + 1))]
    cases hf : f 0 <;> simp [hf, Nat.add_comm]

/-- The bits of `D_K` (R112). -/
theorem chunkData_getLsbD (c : BitString) (k : Nat) {j : Nat} (hj : j < 16) :
    (Asm.chunkData c k).getLsbD j = c.getD (16 * k + j) false := by
  rw [Asm.chunkData, sum_two_pow_eq_ofBits (fun j => c.getD (16 * k + j) false), BitVec.getLsbD_ofNat,
    Nat.testBit_ofBits_lt _ j hj, decide_eq_true hj, Bool.true_and]

/-- An entry with the chunks `ks` of a code written to it. -/
def Entry.withChunks (e : Entry) (c : BitString) (ks : List Nat) : Entry :=
  ks.foldl (fun e k => e.withChunk (BitVec.ofNat 4 k) (Asm.chunkData c k)) e

/-- The TBL_BITS words of a load write the chunks and nothing else (R112, R243). -/
theorem runWords_tblBits (sym : Symbol) (c : BitString) (ks : List Nat) {s : State} (hm : s.mode = .idle) :
    runWords (wordsOf (ks.map (fun k => .tblBits (BitVec.ofNat 4 k) sym (Asm.chunkData c k)))) s =
      .next (s.setEntry sym ((s.entry sym).withChunks c ks)) := by
  induction ks generalizing s with
  | nil => exact congrArg _ (setEntry_entry s sym).symm
  | cons k ks ih =>
    rw [List.map_cons, runWords_wordsOf_cons, resultOf_tblBits_of_idle _ _ _ hm, ih (by rw [setEntry_mode, hm]),
      setEntry_setEntry, entry_setEntry_same]
    rfl

/-- The entry a load writes (R112): the length of the code, then every chunk of it. -/
def Entry.ofCode (c : BitString) : Entry :=
  (Entry.ofLen (BitVec.ofNat 8 c.length)).withChunks c (List.range (Asm.chunkCount c.length))

/-- A load's words write one entry (R112). -/
theorem runWords_loadEntry (sym : Symbol) (c : BitString) {s : State} (hm : s.mode = .idle) :
    runWords (wordsOf (Asm.loadEntry sym c)) s = .next (s.setEntry sym (Entry.ofCode c)) := by
  rw [Asm.loadEntry, runWords_wordsOf_cons, resultOf_tblLen_of_idle _ _ hm,
    runWords_tblBits _ _ _ (by rw [setEntry_mode, hm]), setEntry_setEntry, entry_setEntry_same, Entry.ofCode]

/-- The first `n` chunks leave the length and write the first `16 n` cells. -/
theorem withChunks_range (e : Entry) (c : BitString) {n : Nat} (hn : n ≤ 16) :
    (e.withChunks c (List.range n)).len = e.len ∧
      ∀ i < 16 * n, (e.withChunks c (List.range n)).cell i = c.getD i false := by
  induction n with
  | zero => exact ⟨rfl, by simp⟩
  | succ n ih =>
    obtain ⟨hlen, hcell⟩ := ih (by omega)
    have hk : (BitVec.ofNat 4 n).toNat = n := by rw [BitVec.toNat_ofNat]; omega
    simp only [Entry.withChunks, List.range_succ, List.foldl_append, List.foldl_cons, List.foldl_nil] at hlen hcell ⊢
    refine ⟨hlen, fun i hi => ?_⟩
    rw [withChunk_cell, hk]
    split
    next h => rw [chunkData_getLsbD c n (by omega), Nat.add_sub_cancel' h.1]
    next h => exact hcell i (by omega)

/-- An entry with the length of a code and the code's bits in its cells has that code (R34). -/
theorem code_eq_of_cells {e : Entry} {c : BitString} (hlen : e.len.toNat = c.length)
    (hcell : ∀ i < c.length, e.cell i = c.getD i false) : e.code = c := by
  apply List.ext_getElem
  · rw [code_length, hlen]
  · intro i hi hc
    rw [code_getElem, hcell i hc, List.getD_eq_getElem _ _ hc]

/-- The entry a load writes has the code's length, and its chunks cover the code (R244). -/
theorem ofCode_spec {c : BitString} (hmax : c.length ≤ 255) :
    (Entry.ofCode c).len.toNat = c.length ∧ (Entry.ofCode c).code = c := by
  have hcount : Asm.chunkCount c.length ≤ 16 ∧ c.length ≤ 16 * Asm.chunkCount c.length := by
    unfold Asm.chunkCount
    omega
  obtain ⟨hkept, hcell⟩ := withChunks_range (Entry.ofLen (BitVec.ofNat 8 c.length)) c hcount.1
  have hlen : (Entry.ofCode c).len.toNat = c.length := by
    rw [Entry.ofCode, hkept, ofLen_len, BitVec.toNat_ofNat]
    omega
  exact ⟨hlen, code_eq_of_cells hlen fun i hi => hcell i (hi.trans_le hcount.2)⟩

/-! ### R244 -/

/-- Settles O44: the words of a load write the one entry `Entry.ofCode c`, whose code is `c`. -/
theorem loadEntryGivesTheCode : Obligations.LoadEntryGivesTheCode := by
  intro sym c s _ hmax hm
  obtain ⟨hlen, hcode⟩ := ofCode_spec hmax
  refine ⟨_, runWords_loadEntry sym c hm, sameExceptTable_setEntry .., ?_, ?_, fun x hx => entry_setEntry_other s _ hx⟩
  · rw [entry_setEntry_same, hlen]
  · rw [entry_setEntry_same, hcode]

end Sys2Proof.Machine
end

section
/-! SUPPORT. The stream commands (R270, R271): ENC and FLUSH as whole next states, and their words. -/

namespace Sys2Proof

theorem decode_enc {w : Word} (h : Mnemonic.enc.HasForm w) : decode w = .instr (.enc (symField w)) := by
  obtain ⟨hop, hk, hdata⟩ := h
  simp [decode, decodeFS, hop, Mnemonic.opcode, hk, hdata]

end Sys2Proof

namespace Sys2Proof.Machine

/-! ### The commands by mode -/

theorem resultOf_enc_of_error (sym : Symbol) {s : State} (hm : s.mode = .error) :
    resultOf (.enc sym) s = discard s := if_pos hm

theorem resultOf_enc_of_invalid {sym : Symbol} {s : State} (hm : s.mode ≠ .error) (hl : (s.entry sym).len = 0#8) :
    resultOf (.enc sym) s = raiseError (.snf sym) s := (if_neg hm).trans (if_pos hl)

theorem resultOf_enc_of_valid {sym : Symbol} {s : State} (hm : s.mode ≠ .error) (hl : (s.entry sym).len ≠ 0#8) :
    resultOf (.enc sym) s = encodeSymbol sym s := (if_neg hm).trans (if_neg hl)

/-- FLUSH with the failure bit `f` of the mode (R271). -/
theorem resultOf_flush {s : State} {f : Bool} (hf : (s.mode == .error) = f) :
    resultOf .flush s = { s with ser := s.ser ++ [.endMark f], mode := .idle } := by
  rw [resultOf, hf]
  rfl

/-- A successful ENC, cell by cell and with the counters as numbers (R270). -/
theorem encodeSymbol_eq (sym : Symbol) (s : State) :
    encodeSymbol sym s =
      { s with
        ser := s.ser ++ (List.range (s.entry sym).len.toNat).map (fun i => .bit ((s.entry sym).store.getLsbD i))
        mode := .stream
        symCount := BitVec.ofNat 32 (s.symCount.toNat + 1)
        bitCount := BitVec.ofNat 32 (s.bitCount.toNat + (s.entry sym).len.toNat) } := by
  have hser : (s.entry sym).code.map Item.bit =
      (List.range (s.entry sym).len.toNat).map (fun i => .bit ((s.entry sym).store.getLsbD i)) := List.map_map
  have hsym : s.symCount + 1#32 = BitVec.ofNat 32 (s.symCount.toNat + 1) := by simp [BitVec.ofNat_add]
  have hbit : s.bitCount + (s.entry sym).len.setWidth 32 =
      BitVec.ofNat 32 (s.bitCount.toNat + (s.entry sym).len.toNat) := by simp [BitVec.ofNat_add]
  rw [← hser, ← hsym, ← hbit]
  rfl

/-! ### R270, R271 -/

/-- Settles O19: the three paths of ENC, the form of its words, and the illegal words by their numbers (R109). -/
theorem encLooksUpAndEmitsTheCode : Obligations.EncLooksUpAndEmitsTheCode := by
  refine ⟨fun sym s => ⟨fun hm => ?_, fun hm hl => ?_, fun hm hl => ?_⟩, fun w hw => ?_, fun w hop hres => ?_⟩
  · rw [exec_eq_next, resultOf_enc_of_error sym hm, discard]
  · exact exec_enc_of_invalid hm hl
  · rw [exec_eq_next, resultOf_enc_of_valid hm hl, encodeSymbol_eq]
  · have hform := hasForm_of_masked (r := ⟨.enc, 0x40000000, 0xFF00FFFF⟩) (by decide) hw
    rw [decode_enc hform, symField_eq_ofNat]
  · exact (illegalWordsAreTheTwoKinds w).1.mpr (.inr (.inr (.inr ⟨hop, hres⟩)))

/-- Settles O20: the failure bit is that of the mode, and every other word of the opcode has a reserved bit set. -/
theorem flushEndsTheStream : Obligations.FlushEndsTheStream := by
  refine ⟨fun s => ⟨fun hm => ?_, fun hm => ?_⟩, rfl, fun w hop hne => ?_⟩
  · rw [exec_eq_next, resultOf_flush (beq_iff_eq.mpr hm)]
  · rw [exec_eq_next, resultOf_flush (beq_eq_false_iff_ne.mpr hm)]
  · have hw : w.toNat ≠ 0x50000000 := fun h => hne (BitVec.eq_of_toNat_eq h)
    exact (illegalWordsAreTheTwoKinds w).1.mpr (by omega)

end Sys2Proof.Machine
end

section
/-! SUPPORT. A run without reset has the effect of its words (R72, R73, R303): the host, the consumer and the serializer move
words and items, and what a word does depends on none of the three. -/

namespace Sys2Proof.Machine

/-! ### The part of the state that words are executed on -/

/-- The block of `u` with the queue, the delivered items and the environment's own fields of `t`. `sameControl u t` says
`t = u.connectedTo t`. -/
def State.connectedTo (u t : State) : State :=
  { u with ser := t.ser, out := t.out, cmds := t.cmds, env := t.env, draws := t.draws }

/-- The effect `f` on the block of `u` emits the items `new` and depends on nothing that `connectedTo` replaces. -/
def Emits (f : State → State) (u : State) (new : List Item) : Prop :=
  ∀ t, f (u.connectedTo t) = (f u).connectedTo (t.emit new)

theorem emits_nil_of_comm {f : State → State} {u : State} (h : ∀ t, f (u.connectedTo t) = (f u).connectedTo t) :
    Emits f u [] := fun t => by
  rw [h, State.emit, List.append_nil]

theorem discard_emits (u : State) : Emits discard u [] := emits_nil_of_comm fun _ => rfl

theorem raiseError_emits (k : ErrorKind) (u : State) : Emits (raiseError k) u [] := by
  cases k <;> exact emits_nil_of_comm fun _ => rfl

/-- Effects that agree on the block of `u` emit the same. -/
theorem Emits.congr {f g : State → State} {u : State} {new : List Item} (h : Emits g u new)
    (hfg : ∀ t, f (u.connectedTo t) = g (u.connectedTo t)) : Emits f u new := fun t => by
  have hu : f u = g u := hfg u
  rw [hfg, h, hu]

theorem tableGuard_emits {effect : State → State} {u : State} (h : Emits effect u []) :
    Emits (tableGuard effect) u [] := by
  cases hm : u.mode with
  | idle => exact h.congr fun _ => tableGuard_of_idle effect hm
  | stream => exact (raiseError_emits .tbl u).congr fun _ => tableGuard_of_stream effect hm
  | error => exact (discard_emits u).congr fun _ => tableGuard_of_error effect hm

theorem enc_emits (sym : Symbol) (u : State) : ∃ new, Emits (resultOf (.enc sym)) u new := by
  by_cases hm : u.mode = .error
  · exact ⟨[], (discard_emits u).congr fun _ => resultOf_enc_of_error sym hm⟩
  by_cases hl : (u.entry sym).len = 0#8
  · exact ⟨[], (raiseError_emits (.snf sym) u).congr fun _ => resultOf_enc_of_invalid hm hl⟩
  · exact ⟨(u.entry sym).code.map .bit,
      Emits.congr (g := encodeSymbol sym) (fun _ => rfl) fun _ => resultOf_enc_of_valid hm hl⟩

theorem resultOf_emits (i : Instr) (u : State) : ∃ new, Emits (resultOf i) u new := by
  cases i with
  | nop | clrStatus => exact ⟨[], emits_nil_of_comm fun _ => rfl⟩
  | flush => exact ⟨[.endMark (u.mode == .error)], fun _ => rfl⟩
  | tblClear | tblLen | tblBits => exact ⟨[], tableGuard_emits (emits_nil_of_comm fun _ => rfl)⟩
  | enc sym => exact enc_emits sym u

theorem wordResult_emits (w : Word) (u : State) : ∃ new, Emits (wordResult w) u new := by
  unfold wordResult
  cases decode w with
  | instr i => exact resultOf_emits i u
  | illegal _ => exact ⟨[], raiseError_emits .ill u⟩

/-! ### States with one effect -/

/-- `t` has handed over or holds the items of `u`, and has its table, mode, flags and counters. -/
structure SameEffect (u t : State) : Prop where
  items : t.items = u.items
  control : sameControl u t

section
variable {u t : State} (h : SameEffect u t)
include h

theorem SameEffect.eq_connectedTo : t = u.connectedTo t := h.control

theorem SameEffect.table : t.table = u.table := (congrArg State.table h.eq_connectedTo).trans rfl
theorem SameEffect.mode : t.mode = u.mode := (congrArg State.mode h.eq_connectedTo).trans rfl
theorem SameEffect.errSnf : t.errSnf = u.errSnf := (congrArg State.errSnf h.eq_connectedTo).trans rfl
theorem SameEffect.errIll : t.errIll = u.errIll := (congrArg State.errIll h.eq_connectedTo).trans rfl
theorem SameEffect.errTbl : t.errTbl = u.errTbl := (congrArg State.errTbl h.eq_connectedTo).trans rfl
theorem SameEffect.errSym : t.errSym = u.errSym := (congrArg State.errSym h.eq_connectedTo).trans rfl
theorem SameEffect.symCount : t.symCount = u.symCount := (congrArg State.symCount h.eq_connectedTo).trans rfl
theorem SameEffect.bitCount : t.bitCount = u.bitCount := (congrArg State.bitCount h.eq_connectedTo).trans rfl
theorem SameEffect.dropCount : t.dropCount = u.dropCount := (congrArg State.dropCount h.eq_connectedTo).trans rfl

end

theorem SameEffect.refl (s : State) : SameEffect s s := ⟨rfl, rfl⟩

theorem SameEffect.trans {s t u : State} (h : SameEffect s t) (h' : SameEffect t u) : SameEffect s u where
  items := h'.items.trans h.items
  control := calc
    u = t.connectedTo u := h'.eq_connectedTo
    _ = (s.connectedTo t).connectedTo u := congrArg (State.connectedTo · u) h.eq_connectedTo
    _ = s.connectedTo u := rfl

theorem sameEffect_advance (s : State) : SameEffect s s.advance := ⟨rfl, rfl⟩

theorem sameEffect_serializerStep (s : State) : SameEffect s (serializerStep s) :=
  ⟨serializerStep_items s, serializerStep_sameControl s⟩

theorem Emits.items {f : State → State} {u : State} {new : List Item} (h : Emits f u new) (t : State) :
    (f (u.connectedTo t)).items = t.items ++ new := by
  rw [h]
  exact (List.append_assoc ..).symm

/-- A word has the same effect on both of two states with one effect. -/
theorem wordResult_sameEffect {u t : State} (h : SameEffect u t) (w : Word) :
    SameEffect (wordResult w u) (wordResult w t) := by
  obtain ⟨new, hnew⟩ := wordResult_emits w u
  constructor
  · have hu : (wordResult w u).items = u.items ++ new := hnew.items u
    rw [h.eq_connectedTo, hnew.items, hu, h.items]
  · rw [h.eq_connectedTo, hnew]
    rfl

/-! ### Runs -/

theorem exists_clockEdge (p : PinsIn) (s : State) : ∃ t, clockEdge p s = .next t := by
  unfold clockEdge
  split_ifs
  · exact ⟨_, rfl⟩
  · exact ⟨_, execWord_eq_next p.cmdData s⟩
  · exact ⟨_, rfl⟩
  · exact ⟨_, rfl⟩

theorem runSteps_succ_eq_next {n : Nat} {s t : State} (h : runSteps (n + 1) s = .next t) :
    ∃ s', step s = .next s' ∧ runSteps n s' = .next t := by
  obtain ⟨s', hs⟩ : ∃ s', step s = .next s' := exists_clockEdge s.pins s.advance
  exact ⟨s', hs, runSteps_succ n hs ▸ h⟩

theorem noReset_succ {n : Nat} {s t : State} (hr : s.noReset (n + 1)) (h : step s = .next t) :
    s.pins.rst = false ∧ t.noReset n := by
  refine ⟨?_, fun i hi => ?_⟩
  · show s.envNow.rst = false
    rw [envNow_eq_envAt]
    exact hr 0 n.succ_pos
  · have henv : t.envAt i = s.envAt (i + 1) := by
      cases he : s.env <;> simp [State.envAt, step_env h, he]
    rw [henv]
    exact hr (i + 1) (Nat.succ_lt_succ hi)

/-- A step without reset has the effect of the word it transfers, or none. -/
theorem step_sameEffect {s t : State} (h : step s = .next t) (hr : s.pins.rst = false) :
    (∃ w, s.wordTransferring = some w ∧ SameEffect (wordResult w s) t) ∨
      (s.wordTransferring = none ∧ SameEffect s t) := by
  obtain ⟨hrst, -⟩ | ⟨i, hc, hd, rfl⟩ | ⟨r, hc, hd, rfl⟩ | ⟨hi, rfl⟩ | ⟨-, hc, -, rfl⟩ := step_cases h
  · rw [hr] at hrst
    cases hrst
  · refine .inl ⟨s.pins.cmdData, if_pos hc, ?_⟩
    simpa [wordResult, hd] using wordResult_sameEffect (sameEffect_advance s) s.pins.cmdData
  · refine .inl ⟨s.pins.cmdData, if_pos hc, ?_⟩
    simpa [wordResult, hd] using wordResult_sameEffect (sameEffect_advance s) s.pins.cmdData
  · obtain ⟨hser, -, -⟩ := (itemTransfers_iff _ _).mp hi
    refine .inr ⟨if_neg fun hc => hser ((cmdTransfers_iff _ _).mp hc).2.1, ?_⟩
    exact (sameEffect_advance s).trans (sameEffect_serializerStep s.advance)
  · exact .inr ⟨if_neg (by simp [hc]), sameEffect_advance s⟩

/-- A run without reset has the effect of its words, also on a state with the effect of the one it starts from. -/
theorem exists_runWords_sameEffect {n : Nat} {s t u : State} (hu : SameEffect u s) (hr : s.noReset n)
    (h : runSteps n s = .next t) : ∃ v, runWords (wordsTransferred n s) u = .next v ∧ SameEffect v t := by
  induction n generalizing s u with
  | zero =>
    obtain rfl : s = t := by simpa [runSteps_zero] using h
    exact ⟨u, rfl, hu⟩
  | succ n ih =>
    obtain ⟨s', hs, hrun⟩ := runSteps_succ_eq_next h
    obtain ⟨hrst, hr'⟩ := noReset_succ hr hs
    rw [wordsTransferred_succ n hs]
    obtain ⟨w, hw, heff⟩ | ⟨hw, heff⟩ := step_sameEffect hs hrst <;> rw [hw]
    · rw [Option.toList_some, List.singleton_append, runWords_cons]
      exact ih ((wordResult_sameEffect hu w).trans heff) hr' hrun
    · exact ih (hu.trans heff) hr' hrun

/-- The state a run reaches, from the state its words lead to. -/
theorem sameEffect_of_run {n : Nat} {s t u : State} (hr : s.noReset n) (h : runSteps n s = .next t)
    (hw : runWords (wordsTransferred n s) s = .next u) : SameEffect u t := by
  obtain ⟨v, hv, heff⟩ := exists_runWords_sameEffect (.refl s) hr h
  rw [hw, Host.Outcome.next.injEq] at hv
  exact hv ▸ heff

end Sys2Proof.Machine
end

section
/-! SUPPORT. The encoder contract (R273, R274): what the words of a stream do to a block that holds a code table, one phase
after the other (symbols found, the miss, symbols discarded, the end), and from there the contract for every run. -/

namespace Sys2Proof.Ref

/-- Encoding fails at the first symbol outside the table (R274). -/
theorem encode_append_missing {ct : CodeTable} {good : List Symbol} (hgood : ∀ y ∈ good, (ct.lookup y).isSome = true)
    {x : Symbol} (hx : ct.lookup x = none) (later : List Symbol) :
    encode ct (good ++ x :: later) = .error (.symbolNotFound x) := by
  induction good with
  | nil => simp [encode, hx]
  | cons y good ih =>
    obtain ⟨hy, hgood⟩ := List.forall_mem_cons.mp hgood
    obtain ⟨c, hc⟩ := Option.isSome_iff_exists.mp hy
    simp [encode, hc, ih hgood]

theorem CodeTable.codeOf_ne_nil {ct : CodeTable} (hne : ct.codesNonEmpty) {x : Symbol}
    (hx : (ct.lookup x).isSome = true) : ct.codeOf x ≠ [] := hne _ (CodeTable.codeOf_mem hx)

end Sys2Proof.Ref

namespace Sys2Proof.Machine

/-! ### The loaded table -/

theorem code_of_holdsTable {s : State} {ct : Ref.CodeTable} (h : s.holdsTable ct) {x : Symbol}
    (hx : (ct.lookup x).isSome = true) : (s.entry x).code = ct.codeOf x := by
  obtain ⟨c, hc⟩ := Option.isSome_iff_exists.mp hx
  have hentry := h x
  rw [hc] at hentry
  rw [hentry.2, Ref.CodeTable.codeOf, hc, Option.getD_some]

theorem len_ne_zero_of_holdsTable {s : State} {ct : Ref.CodeTable} (h : s.holdsTable ct) (hne : ct.codesNonEmpty)
    {x : Symbol} (hx : (ct.lookup x).isSome = true) : (s.entry x).len ≠ 0#8 := by
  rw [ne_eq, ← code_eq_nil_iff, code_of_holdsTable h hx]
  exact Ref.CodeTable.codeOf_ne_nil hne hx

theorem len_eq_zero_of_holdsTable {s : State} {ct : Ref.CodeTable} (h : s.holdsTable ct) {x : Symbol}
    (hx : ct.lookup x = none) : (s.entry x).len = 0#8 := by
  have hentry := h x
  rwa [hx] at hentry

/-! ### Counters -/

theorem add_one_add_ofNat (c : Word) (n : Nat) : c + 1#32 + BitVec.ofNat 32 n = c + BitVec.ofNat 32 (n + 1) := by
  rw [Nat.add_comm, BitVec.ofNat_add, BitVec.add_assoc]

theorem toNat_add_ofNat (c : Word) (n : Nat) : (c + BitVec.ofNat 32 n).toNat = (c.toNat + n) % 2 ^ 32 := by
  rw [BitVec.toNat_add, BitVec.toNat_ofNat, Nat.add_mod_mod]

/-! ### Symbols that are found -/

/-- `s` after the ENCs of `xs`, all found in `ct`. -/
def State.encoded (s : State) (ct : Ref.CodeTable) (xs : List Symbol) : State :=
  { s with
    ser := s.ser ++ (xs.flatMap ct.codeOf).map .bit
    mode := if xs = [] then s.mode else .stream
    symCount := s.symCount + BitVec.ofNat 32 xs.length
    bitCount := s.bitCount + BitVec.ofNat 32 (xs.flatMap ct.codeOf).length }

theorem encoded_nil (s : State) (ct : Ref.CodeTable) : s.encoded ct [] = s := by
  simp [State.encoded]

theorem encoded_cons (s : State) (ct : Ref.CodeTable) (x : Symbol) (xs : List Symbol) :
    (s.encoded ct [x]).encoded ct xs = s.encoded ct (x :: xs) := by
  simp [State.encoded, BitVec.ofNat_add, BitVec.add_assoc, BitVec.add_comm 1#32]

theorem encoded_mode_ne_error {s : State} (hm : s.mode ≠ .error) (ct : Ref.CodeTable) (xs : List Symbol) :
    (s.encoded ct xs).mode ≠ .error := by
  rw [State.encoded]
  split <;> simp [hm]

theorem encodeSymbol_eq_encoded {s : State} {ct : Ref.CodeTable} (h : s.holdsTable ct) {x : Symbol}
    (hx : (ct.lookup x).isSome = true) : encodeSymbol x s = s.encoded ct [x] := by
  simp only [State.encoded, List.flatMap_singleton, ← code_of_holdsTable h hx, code_length, BitVec.ofNat_toNat,
    if_neg (List.cons_ne_nil x [])]
  rfl

theorem runWords_encodeSeq {ct : Ref.CodeTable} (hne : ct.codesNonEmpty) {xs : List Symbol}
    (hxs : ∀ x ∈ xs, (ct.lookup x).isSome = true) (is : List Instr) {s : State} (h : s.holdsTable ct)
    (hm : s.mode ≠ .error) :
    runWords (wordsOf (Asm.encodeSeq xs ++ is)) s = runWords (wordsOf is) (s.encoded ct xs) := by
  induction xs generalizing s with
  | nil => rw [encoded_nil]; rfl
  | cons x xs ih =>
    obtain ⟨hx, hxs⟩ := List.forall_mem_cons.mp hxs
    calc runWords (wordsOf (.enc x :: (Asm.encodeSeq xs ++ is))) s
        = runWords (wordsOf (Asm.encodeSeq xs ++ is)) (s.encoded ct [x]) := by
          rw [runWords_wordsOf_cons, resultOf_enc_of_valid hm (len_ne_zero_of_holdsTable h hne hx),
            encodeSymbol_eq_encoded h hx]
      _ = runWords (wordsOf is) ((s.encoded ct [x]).encoded ct xs) := ih hxs h (encoded_mode_ne_error hm ct [x])
      _ = runWords (wordsOf is) (s.encoded ct (x :: xs)) := by rw [encoded_cons]

/-! ### Symbols that are discarded -/

theorem runWords_encodeSeq_of_error (xs : List Symbol) (is : List Instr) {s : State} (hm : s.mode = .error) :
    runWords (wordsOf (Asm.encodeSeq xs ++ is)) s =
      runWords (wordsOf is) { s with dropCount := s.dropCount + BitVec.ofNat 32 xs.length } := by
  induction xs generalizing s with
  | nil => simp [Asm.encodeSeq]
  | cons x xs ih =>
    calc runWords (wordsOf (.enc x :: (Asm.encodeSeq xs ++ is))) s
        = runWords (wordsOf (Asm.encodeSeq xs ++ is)) (discard s) := by
          rw [runWords_wordsOf_cons, resultOf_enc_of_error x hm]
      _ = _ := by rw [ih (s := discard s) hm, discard_dropCount, add_one_add_ofNat]; rfl

/-! ### Whole streams -/

/-- `s` after the ENCs of `xs`, all found in `ct`, and a FLUSH. -/
def State.afterStream (s : State) (ct : Ref.CodeTable) (xs : List Symbol) : State :=
  { s.encoded ct xs with ser := (s.encoded ct xs).ser ++ [.endMark false], mode := .idle }

/-- `s` after the ENCs of `good`, all found, of `x`, which is not, and of the symbols `later`, and a FLUSH. -/
def State.afterFailedStream (s : State) (ct : Ref.CodeTable) (good : List Symbol) (x : Symbol) (later : List Symbol) :
    State :=
  { s.encoded ct good with
    ser := (s.encoded ct good).ser ++ [.endMark true]
    mode := .idle
    errSnf := true
    errSym := if s.errSnf then s.errSym else x
    dropCount := s.dropCount + BitVec.ofNat 32 later.length }

theorem afterStream_items (s : State) (ct : Ref.CodeTable) (xs : List Symbol) :
    (s.afterStream ct xs).items = s.items ++ (xs.flatMap ct.codeOf).map .bit ++ [.endMark false] := by
  simp [State.items, State.afterStream, State.encoded]

theorem afterFailedStream_items (s : State) (ct : Ref.CodeTable) (good : List Symbol) (x : Symbol)
    (later : List Symbol) :
    (s.afterFailedStream ct good x later).items =
      s.items ++ (good.flatMap ct.codeOf).map .bit ++ [.endMark true] := by
  simp [State.items, State.afterFailedStream, State.encoded]

section
variable {ct : Ref.CodeTable} {s : State} (hne : ct.codesNonEmpty) (h : s.holdsTable ct) (hm : s.mode ≠ .error)
include hne h hm

theorem runWords_encodeStream {xs : List Symbol} (hxs : ∀ x ∈ xs, (ct.lookup x).isSome = true) :
    runWords (wordsOf (Asm.encodeStream xs)) s = .next (s.afterStream ct xs) := by
  have hf : ((s.encoded ct xs).mode == .error) = false := beq_eq_false_iff_ne.mpr (encoded_mode_ne_error hm ct xs)
  rw [Asm.encodeStream, runWords_encodeSeq hne hxs _ h hm, runWords_wordsOf_cons, resultOf_flush hf]
  rfl

theorem runWords_encodeStream_missing {good : List Symbol} (hgood : ∀ y ∈ good, (ct.lookup y).isSome = true)
    {x : Symbol} (hx : ct.lookup x = none) (later : List Symbol) :
    runWords (wordsOf (Asm.encodeStream (good ++ x :: later))) s = .next (s.afterFailedStream ct good x later) := by
  have hwords : Asm.encodeStream (good ++ x :: later) =
      Asm.encodeSeq good ++ .enc x :: (Asm.encodeSeq later ++ [.flush]) := by
    simp [Asm.encodeStream, Asm.encodeSeq]
  have hmiss : resultOf (.enc x) (s.encoded ct good) = raiseError (.snf x) (s.encoded ct good) :=
    resultOf_enc_of_invalid (encoded_mode_ne_error hm ct good) (len_eq_zero_of_holdsTable (s := s) h hx)
  rw [hwords, runWords_encodeSeq hne hgood _ h hm, runWords_wordsOf_cons, hmiss,
    runWords_encodeSeq_of_error later _ (raiseError_mode ..), runWords_wordsOf_cons, resultOf_flush (f := true) rfl]
  rfl

end

/-! ### R273, R274 -/

/-- Settles O46: the run has the effect of its words, which are ENCs that are all found and a FLUSH. -/
theorem encoderContractOnSuccess : Obligations.EncoderContractOnSuccess := by
  intro ct xs n s t hne htable hidle hxs hr hrun hwords
  have hm : s.mode ≠ .error := by simp [hidle]
  have heff : SameEffect (s.afterStream ct xs) t :=
    sameEffect_of_run hr hrun (hwords ▸ runWords_encodeStream hne htable hm hxs)
  refine ⟨xs.flatMap ct.codeOf, Ref.encode_eq_flatMap hxs, rfl, heff.items.trans (afterStream_items s ct xs),
    heff.mode, ?_, ?_, heff.errSnf, heff.errIll, heff.errTbl, heff.errSym, heff.dropCount, heff.table⟩
  · rw [heff.symCount]
    exact toNat_add_ofNat ..
  · rw [heff.bitCount]
    exact toNat_add_ofNat ..

/-- Settles O47: the run has the effect of its words; after the miss every ENC is discarded, and the FLUSH emits `E1`. -/
theorem encoderContractOnFailure : Obligations.EncoderContractOnFailure := by
  intro ct good x later n s t hne htable hidle hgood hx hr hrun hwords
  have hm : s.mode ≠ .error := by simp [hidle]
  have heff : SameEffect (s.afterFailedStream ct good x later) t :=
    sameEffect_of_run hr hrun (hwords ▸ runWords_encodeStream_missing hne htable hm hgood hx later)
  refine ⟨good.flatMap ct.codeOf, Ref.encode_eq_flatMap hgood, Ref.encode_append_missing hgood hx later,
    heff.items.trans (afterFailedStream_items s ct good x later), heff.mode, heff.errSnf, fun hsnf => ?_,
    fun hsnf => ?_, ?_, heff.errIll, heff.errTbl, heff.table, rfl⟩
  · rw [heff.errSym, State.afterFailedStream, hsnf]
    rfl
  · rw [heff.errSym, State.afterFailedStream, hsnf]
    rfl
  · rw [heff.dropCount]
    exact toNat_add_ofNat ..

end Sys2Proof.Machine
end

section
/-! SUPPORT. The consumer's streams (R272): the split at `End` items, and what each event of a cycle does to it. -/

namespace Sys2Proof.Ref

theorem splitLoop_bits (acc bits : BitString) : splitLoop acc (bits.map .bit) = ([], acc ++ bits) := by
  induction bits generalizing acc with
  | nil => simp [splitLoop]
  | cons b bits ih => simp [splitLoop, ih]

theorem splitStreams_bits (bits : BitString) : splitStreams (bits.map .bit) = ([], bits) := splitLoop_bits [] bits

/-- The items up to an `End` item are one stream, and what follows is split on its own. -/
theorem splitStreams_stream (bits : BitString) (f : Bool) (rest : List Machine.Item) :
    splitStreams (bits.map .bit ++ .endMark f :: rest) =
      (⟨bits, f⟩ :: (splitStreams rest).1, (splitStreams rest).2) := by
  simp [splitStreams, splitLoop_append, splitLoop_bits, splitLoop]

/-- One more item goes on from what the items before it leave open. -/
theorem splitStreams_concat (items : List Machine.Item) (item : Machine.Item) :
    splitStreams (items ++ [item]) =
      ((splitStreams items).1 ++ (splitLoop (splitStreams items).2 [item]).1,
        (splitLoop (splitStreams items).2 [item]).2) :=
  splitLoop_append [] items [item]

/-! ### The streams after each event -/

theorem takenStreams_congr {s t : Machine.State} (hout : t.out = s.out) (hearlier : t.earlier = s.earlier) :
    takenStreams t = takenStreams s := by
  rw [takenStreams, takenStreams, hout, hearlier]

/-- An item that transfers goes on from the open stream. -/
theorem takenStreams_of_item (s : Machine.State) (item : Machine.Item) (rest : List Machine.Item) :
    takenStreams { s with ser := rest, out := s.out ++ [item] } =
      ((takenStreams s).1 ++ (splitLoop (takenStreams s).2 [item]).1, (splitLoop (takenStreams s).2 [item]).2) := by
  simp only [takenStreams, splitStreams_concat, List.append_assoc]

/-- A reset ends no stream, and the next item begins one. -/
theorem takenStreams_resetBlock (s : Machine.State) :
    takenStreams (Machine.resetBlock s) = ((takenStreams s).1, []) := by
  simp [takenStreams, splitStreams, splitLoop]

end Sys2Proof.Ref

namespace Sys2Proof.Machine

/-- The edge that transfers the head item (R73, R300). -/
theorem clockEdge_of_item {p : PinsIn} {s : State} {item : Item} {rest : List Item} (hser : s.ser = item :: rest)
    (hr : p.rst = false) (hready : p.outReady = true) :
    clockEdge p s = .next { s with ser := rest, out := s.out ++ [item] } := by
  rw [clockEdge_of_busy (by simp [hser]) hr, if_pos hready, serializerStep_of_cons hser]

theorem clockEdge_of_rst {p : PinsIn} (s : State) (hr : p.rst = true) : clockEdge p s = .next (resetBlock s) :=
  if_pos hr

theorem wordResult_out_earlier (w : Word) (s : State) :
    (wordResult w s).out = s.out ∧ (wordResult w s).earlier = s.earlier := by
  unfold wordResult
  cases decode w with
  | instr i =>
    obtain ⟨-, -, hout, hearlier, -⟩ := resultOf_env i s
    exact ⟨hout, hearlier⟩
  | illegal _ => exact ⟨raiseError_out .ill s, raiseError_earlier .ill s⟩

/-- An edge with neither reset nor an item transfer delivers nothing. -/
theorem clockEdge_out_earlier {p : PinsIn} {s t : State} (hr : p.rst = false) (hi : itemTransfers p s = false)
    (h : clockEdge p s = .next t) : t.out = s.out ∧ t.earlier = s.earlier := by
  by_cases hc : cmdTransfers p s = true
  · rw [clockEdge_of_cmdTransfers hc, execWord_eq_next, Host.Outcome.next.injEq] at h
    exact h ▸ wordResult_out_earlier p.cmdData s
  · obtain rfl : s = t := by simpa [clockEdge, hr, hc, hi] using h
    exact ⟨rfl, rfl⟩

/-! ### R272 -/

/-- Settles O48: a delivered item goes on with the split, a reset begins it anew, and no other event delivers. -/
theorem streamsSplitAtEndItems : Obligations.StreamsSplitAtEndItems := by
  refine ⟨Ref.splitStreams_stream, Ref.splitStreams_bits, rfl, fun p s b rest hser hr hready => ?_,
    fun p s f rest hser hr hready => ?_, fun p s hr => ?_, fun p s t hr hi h => ?_⟩
  · exact ⟨_, clockEdge_of_item hser hr hready, by simp [Ref.takenStreams_of_item, Ref.splitLoop]⟩
  · exact ⟨_, clockEdge_of_item hser hr hready, by simp [Ref.takenStreams_of_item, Ref.splitLoop]⟩
  · exact ⟨_, clockEdge_of_rst s hr, Ref.takenStreams_resetBlock s, rfl⟩
  · obtain ⟨hout, hearlier⟩ := clockEdge_out_earlier hr hi h
    exact Ref.takenStreams_congr hout hearlier

end Sys2Proof.Machine
end

section
/-! SUPPORT. The serializer's own step (R300): what an edge delivers, by the queue and the consumer. -/

namespace Sys2Proof.Machine

/-- The edge of a cycle in which items wait for a consumer that is not ready (R300, R457). -/
theorem clockEdge_of_stall {p : PinsIn} {s : State} (hser : s.ser ≠ []) (hr : p.rst = false)
    (hstall : p.outReady = false) : clockEdge p s = .next s := by
  simp [clockEdge_of_busy hser hr, hstall]

/-- A reset sets the taken items apart and loses none of them (R272, R450). -/
@[simp] theorem resetBlock_delivered (s : State) : (resetBlock s).delivered = s.delivered := by
  simp [State.delivered]

/-- An edge delivers nothing unless an item transfers in it: a reset keeps what was delivered (R73, R300). -/
theorem clockEdge_delivered {p : PinsIn} {s t : State} (hi : itemTransfers p s = false)
    (h : clockEdge p s = .next t) : t.delivered = s.delivered := by
  cases hr : p.rst with
  | true =>
    obtain rfl : resetBlock s = t := by simpa [clockEdge_of_rst s hr] using h
    exact resetBlock_delivered s
  | false =>
    obtain ⟨hout, hearlier⟩ := clockEdge_out_earlier hr hi h
    rw [State.delivered, State.delivered, hout, hearlier]

/-! ### R300 -/

/-- Settles O11: with items in the queue the consumer decides between the serializer step and no change; with none no item
transfers, so nothing is delivered. -/
theorem serializerMovesTheHeadItem : Obligations.SerializerMovesTheHeadItem := by
  refine ⟨fun p s item rest hser hr => ⟨clockEdge_of_item hser hr, ?_⟩, fun p s t hser => ?_⟩
  · exact clockEdge_of_stall (by simp [hser]) hr
  · exact clockEdge_delivered (by simp [itemTransfers, outValid, hser])

end Sys2Proof.Machine
end

section
/-! SUPPORT. The control commands NOP and CLR_STATUS and the illegal words (R320-R322): whole next states in every mode, and
the failure FLUSH that a stream in mode ERROR still owes. -/

namespace Sys2Proof.Machine

/-- In mode ERROR a FLUSH emits `E1`, whatever the flags say (R271, R321). -/
theorem exec_flush_of_error {s : State} (hm : s.mode = .error) :
    exec .flush s = .next { s with ser := s.ser ++ [.endMark true], mode := .idle } := by
  rw [exec_eq_next, resultOf_flush (beq_iff_eq.mpr hm)]

/-- CLR_STATUS lowers the interrupt level (R54, R321). -/
theorem clearStatus_errIrq (s : State) : (clearStatus s).errIrq = false := by
  simp [State.errIrq]

/-- A word with the opcode `n` of a format F0 command, but not that command's word, has a reserved bit set (R102, R109). -/
theorem illegalWord_of_ne_wordF0 {w : Word} {n : Nat} (hn : n = 0 ∨ n = 1 ∨ n = 5 ∨ n = 6) (hop : w.toNat / 2 ^ 28 = n)
    (hne : w ≠ BitVec.ofNat 32 (n * 2 ^ 28)) : illegalWord w := by
  have hw : w.toNat ≠ n * 2 ^ 28 := fun h => hne (by rw [← h, BitVec.ofNat_toNat, BitVec.setWidth_eq])
  exact (illegalWordsAreTheTwoKinds w).1.mpr (.inr (.inl ⟨by rwa [hop], by omega⟩))

/-! ### R320, R321, R322 -/

/-- Settles O22: a word that no row selects is illegal (R107), and raising IllegalCommand keeps the queue and enters mode
ERROR, in which a FLUSH emits `E1`. -/
theorem illegalWordFailsTheStream : Obligations.IllegalWordFailsTheStream := by
  intro w hnone s
  obtain ⟨-, -, -, illegal_iff_no_row⟩ := opcodeMapSelectsTheDecodedCommand
  have hexec : execWord w s = .next (raiseError .ill s) := execWord_of_illegalWord ((illegal_iff_no_row w).mpr hnone) s
  refine ⟨hexec, fun t ht => ?_⟩
  obtain rfl : raiseError .ill s = t := by simpa [hexec] using ht
  rw [exec_flush_of_error (raiseError_mode .ill s), raiseError_ser]

/-- Settles O15: NOP executes only by a transfer, which needs an empty queue (R72), and every other word of the opcode has a
reserved bit set (R109). -/
theorem nopChangesNothing : Obligations.NopChangesNothing := by
  refine ⟨fun s => rfl, fun s hx => ?_, rfl, fun w hop hne => ?_⟩
  · obtain ⟨htransfers, -⟩ := (executes_iff s .nop).mp hx
    obtain ⟨-, hser, -⟩ := (cmdTransfers_iff _ _).mp htransfers
    exact hser
  · exact illegalWord_of_ne_wordF0 (by decide) hop hne

/-- Settles O21: CLR_STATUS clears the flags and counters and keeps the mode and the queue, so the FLUSH of a failed stream
still emits `E1`; every other word of the opcode has a reserved bit set (R109). -/
theorem clrStatusClearsFlagsAndCounters : Obligations.ClrStatusClearsFlagsAndCounters := by
  have hexec (s : State) : exec .clrStatus s = .next (clearStatus s) := exec_eq_next .clrStatus s
  refine ⟨hexec, fun s t ht => ?_, rfl, fun w hop hne => ?_⟩
  · obtain rfl : clearStatus s = t := by simpa [hexec] using ht
    refine ⟨clearStatus_errIrq s, clearStatus_mode s, fun hm => ?_⟩
    exact ⟨_, exec_flush_of_error ((clearStatus_mode s).trans hm), by simp⟩
  · exact illegalWord_of_ne_wordF0 (by decide) hop hne

end Sys2Proof.Machine
end

section
/-! SUPPORT. The size estimate (R370-R372): TBL_NVALID and TBL_LENSUM of a block that holds a code table, as sums over the
table, and the counters after CLR_STATUS and a stream. -/

namespace Sys2Proof.Ref

/-! ### The domain of a code table -/

section
variable {ct : CodeTable} {x : Symbol}

theorem CodeTable.codeOf_eq_nil_of_not_mem (hx : x ∉ ct.domain) : ct.codeOf x = [] := by
  have hnone : ct.lookup x = none :=
    Option.not_isSome_iff_eq_none.mp fun hsome => hx (List.mem_map_of_mem (codeOf_mem hsome))
  rw [codeOf, hnone, Option.getD_none]

theorem CodeTable.mem_domain_iff (hmap : ct.isMap) (hne : ct.codesNonEmpty) : x ∈ ct.domain ↔ ct.codeOf x ≠ [] := by
  refine ⟨fun hx => ?_, not_imp_comm.mp codeOf_eq_nil_of_not_mem⟩
  obtain ⟨e, he, rfl⟩ := List.mem_map.mp hx
  rw [codeOf_eq_of_mem hmap he]
  exact hne e he

/-- The code lengths of all symbols sum to those of the table's entries: a symbol outside the table adds 0. -/
theorem CodeTable.sum_codeOf_length (hmap : ct.isMap) :
    (allSymbols.map (fun x => (ct.codeOf x).length)).sum = (ct.map (fun e => e.2.length)).sum := by
  have hsub : ct.domain.toFinset ⊆ allSymbols.toFinset := fun x _ => List.mem_toFinset.mpr (mem_allSymbols x)
  have hout : ∀ x ∈ allSymbols.toFinset, x ∉ ct.domain.toFinset → (ct.codeOf x).length = 0 := fun x _ hx => by
    rw [codeOf_eq_nil_of_not_mem (mt List.mem_toFinset.mpr hx), List.length_nil]
  have hentries : ct.domain.map (fun x => (ct.codeOf x).length) = ct.map (fun e => e.2.length) := by
    rw [CodeTable.domain, List.map_map]
    exact List.map_congr_left fun e he => congrArg List.length (codeOf_eq_of_mem hmap he)
  rw [← hentries, ← List.sum_toFinset _ allSymbols_nodup, ← List.sum_toFinset _ hmap, Finset.sum_subset hsub hout]

end

end Sys2Proof.Ref

namespace Sys2Proof.Machine

/-! ### The table registers of a loaded table (R48, R49) -/

theorem csrRead_nvalid_toNat (s : State) : (csrRead 0x0014#16 s).rdata.toNat = s.nvalid := by
  obtain ⟨v, hread, hval, -, -⟩ := tblNvalidCountsValidEntries s
  rw [hread, hval, nvalid_eq_countP]

theorem csrRead_lenSum_toNat (s : State) : (csrRead 0x0018#16 s).rdata.toNat = s.lenSum := by
  obtain ⟨v, hread, hval, -, -⟩ := tblLensumSumsTheLengths s
  rw [hread, hval, lenSum_eq_sum]

section
variable {s : State} {ct : Ref.CodeTable} (h : s.holdsTable ct)
include h

/-- A table is held by the entries alone (R216). -/
theorem holdsTable_congr {t : State} (htable : t.table = s.table) : t.holdsTable ct := fun x => by
  rw [entry_congr htable x]
  exact h x

theorem len_toNat_of_holdsTable (x : Symbol) : (s.entry x).len.toNat = (ct.codeOf x).length := by
  cases hx : ct.lookup x with
  | none => simp [len_eq_zero_of_holdsTable h hx, Ref.CodeTable.codeOf, hx]
  | some c => rw [← code_length, code_of_holdsTable h (by simp [hx])]

/-- The symbols with a valid entry are the domain of the loaded table. -/
theorem len_ne_zero_iff_mem_domain (hmap : ct.isMap) (hne : ct.codesNonEmpty) (x : Symbol) :
    (s.entry x).len ≠ 0#8 ↔ x ∈ ct.domain := by
  rw [Ref.CodeTable.mem_domain_iff hmap hne, ne_eq, ne_eq, ← List.length_eq_zero_iff, ← len_toNat_of_holdsTable h,
    ← BitVec.toNat_inj, BitVec.toNat_zero]

theorem nvalid_of_holdsTable (hmap : ct.isMap) (hne : ct.codesNonEmpty) : s.nvalid = ct.length := by
  have hperm : (Ref.allSymbols.filter (fun x => (s.entry x).len != 0#8)).Perm ct.domain := by
    refine (List.perm_ext_iff_of_nodup (Ref.allSymbols_nodup.filter _) hmap).mpr fun x => ?_
    simp [Ref.mem_allSymbols, ← len_ne_zero_iff_mem_domain h hmap hne]
  calc s.nvalid = Ref.allSymbols.countP (fun x => (s.entry x).len != 0#8) := by
        rw [nvalid_eq_countP, Ref.allSymbols, List.countP_map]
        rfl
    _ = ct.domain.length := by rw [List.countP_eq_length_filter, hperm.length_eq]
    _ = ct.length := List.length_map _

theorem lenSum_of_holdsTable (hmap : ct.isMap) : s.lenSum = (ct.map (fun e => e.2.length)).sum := by
  rw [lenSum_eq_sum, ← Ref.CodeTable.sum_codeOf_length hmap, Ref.allSymbols, List.map_map]
  simp only [len_toNat_of_holdsTable h, Function.comp_def]

end

/-! ### The counters after CLR_STATUS and a stream (R45, R46) -/

section
variable (s : State) (ct : Ref.CodeTable) (xs : List Symbol)

theorem afterStream_clearStatus_symCount (h : xs.length < 2 ^ 32) :
    ((clearStatus s).afterStream ct xs).symCount.toNat = xs.length := calc
  (0#32 + BitVec.ofNat 32 xs.length).toNat = xs.length := by
    rw [BitVec.zero_add, BitVec.toNat_ofNat, Nat.mod_eq_of_lt h]

theorem afterStream_clearStatus_bitCount (h : Ref.encodedLength xs ct < 2 ^ 32) :
    ((clearStatus s).afterStream ct xs).bitCount.toNat = Ref.encodedLength xs ct := calc
  (0#32 + BitVec.ofNat 32 (xs.flatMap ct.codeOf).length).toNat = Ref.encodedLength xs ct := by
    rw [BitVec.zero_add, List.length_flatMap, ← Ref.encodedLength_eq_sum, BitVec.toNat_ofNat, Nat.mod_eq_of_lt h]

end

/-- Settles O58: the run has the effect of its words, CLR_STATUS and a stream that meets R273. The counters start from 0 and
do not wrap, and the table registers show the loaded table, which no word of the run writes. -/
theorem sizesFromTheCounters : Obligations.SizesFromTheCounters := by
  intro ct xs n s t hmap hne htable hidle hxs hr hrun hwords hsyms hbits
  have hm : (clearStatus s).mode ≠ .error := by simp [hidle]
  have hstream : runWords (wordsTransferred n s) s = .next ((clearStatus s).afterStream ct xs) := by
    rw [hwords, runWords_wordsOf_cons]
    exact runWords_encodeStream hne (holdsTable_congr htable (clearStatus_table s)) hm hxs
  have heff : SameEffect ((clearStatus s).afterStream ct xs) t := sameEffect_of_run hr hrun hstream
  have ht : t.holdsTable ct := holdsTable_congr htable heff.table
  have hsymCount : (csrRead 0x0008#16 t).rdata.toNat = xs.length :=
    (congrArg BitVec.toNat heff.symCount).trans (afterStream_clearStatus_symCount s ct xs hsyms)
  have hbitCount : (csrRead 0x000C#16 t).rdata.toNat = Ref.encodedLength xs ct :=
    (congrArg BitVec.toNat heff.bitCount).trans (afterStream_clearStatus_bitCount s ct xs hbits)
  rw [hsymCount, hbitCount, csrRead_nvalid_toNat, csrRead_lenSum_toNat, nvalid_of_holdsTable ht hmap hne,
    lenSum_of_holdsTable ht hmap]
  exact ⟨rfl, rfl⟩

end Sys2Proof.Machine
end

section
/-! SUPPORT. Errors (R402, R403, R405): what raising one records, what mode ERROR discards, and the one event of a command
word, which sets at most one flag. -/

namespace Sys2Proof.Machine

/-! ### Recording an error (R402) -/

theorem recordError_mode (k : ErrorKind) (s : State) : (recordError k s).mode = s.mode := by cases k <;> rfl

/-- The first SymbolNotFound since the flag was last clear records its symbol. -/
theorem recordError_snf_of_clear (sym : Symbol) {s : State} (h : s.errSnf = false) :
    recordError (.snf sym) s = { s with errSnf := true, errSym := sym } := by
  simp [recordError, h]

/-- A further SymbolNotFound records nothing. -/
theorem recordError_snf_of_set (sym : Symbol) {s : State} (h : s.errSnf = true) : recordError (.snf sym) s = s := by
  rw [recordError, h, if_pos rfl, ← h]

theorem setMode_eq_self {s : State} {m : Mode} (h : s.mode = m) : s.setMode m = s := h ▸ rfl

/-- In mode ERROR only the record of a further error is new. -/
theorem raiseError_of_error (k : ErrorKind) {s : State} (hm : s.mode = .error) : raiseError k s = recordError k s :=
  setMode_eq_self ((recordError_mode k s).trans hm)

/-! ### Discarded commands (R403) -/

theorem exec_of_discardable {i : Instr} (hi : isDiscardable i = true) {s : State} (hm : s.mode = .error) :
    exec i s = .next (discard s) := by
  cases i with
  | tblClear | tblLen | tblBits => exact exec_tableCommand_of_error rfl hm
  | enc sym => rw [exec_eq_next, resultOf_enc_of_error sym hm]
  | nop | flush | clrStatus => cases hi

/-! ### The checks of a word (R405) -/

theorem execWord_of_instr {w : Word} {i : Instr} (hd : decode w = .instr i) (s : State) : execWord w s = exec i s := by
  rw [execWord, hd]

/-- The flags, ERR_SYM and the counters after a word are those after its one event. -/
theorem wordResult_sameRecord (w : Word) (s : State) : SameRecord ((wordEvent s w).apply s) (wordResult w s) := by
  unfold wordEvent wordResult
  cases decode w with
  | instr i => exact resultOf_sameRecord i s
  | illegal r => exact .refl _

/-- The error flags that are set in `t` and clear in `s`, counted. -/
def newFlags (s t : State) : Nat :=
  (t.errSnf && !s.errSnf).toNat + (t.errIll && !s.errIll).toNat + (t.errTbl && !s.errTbl).toNat

theorem newFlags_congr (s : State) {t u : State} (h : SameRecord t u) : newFlags s u = newFlags s t := by
  rw [newFlags, newFlags, h.errSnf, h.errIll, h.errTbl]

/-- An event sets at most one flag: each of the three errors sets its own, and no other event sets any. -/
theorem newFlags_apply_le_one (s : State) (e : RecordEvent) : newFlags s (e.apply s) ≤ 1 := by
  cases e with
  | miss | ill | tbl => simpa [newFlags] using Bool.toNat_le _
  | keep | clear | hit | drop => simp [newFlags]

/-! ### R402, R403, R405 -/

/-- Settles O23: the record of each kind, the symbol only while ERR_SNF was 0, and the mode in which a FLUSH emits `E1`. -/
theorem raiseErrorRecordsTheKind : Obligations.RaiseErrorRecordsTheKind := by
  refine fun s => ⟨fun sym h => ?_, fun sym h => ?_, rfl, rfl, fun k => ?_⟩
  · rw [raiseError, recordError_snf_of_clear sym h, State.setMode]
  · rw [raiseError, recordError_snf_of_set sym h, State.setMode]
  · exact ⟨_, exec_flush_of_error (raiseError_mode k s), by rw [raiseError_ser]⟩

/-- Settles O24: the four discards are one effect, and an illegal word in mode ERROR only records its error. -/
theorem errorModeDiscardsTableAndEncCommands : Obligations.ErrorModeDiscardsTableAndEncCommands := by
  refine fun s hm => ⟨fun i hi => exec_of_discardable hi hm, rfl, exec_flush_of_error hm, rfl, fun w hw => ?_⟩
  rw [execWord_of_illegalWord hw, raiseError_of_error .ill hm, recordError]

/-- Settles O25: each check by the mode and the decoded word, and at most one new flag because a word has one event. -/
theorem checksRunInPriorityOrder : Obligations.ChecksRunInPriorityOrder := by
  refine fun w s => ⟨fun hw => execWord_of_illegalWord hw s, fun i hd => ?_, fun t ht => ?_⟩
  · rw [execWord_of_instr hd]
    refine ⟨fun hm hi => exec_of_discardable hi hm, fun hm hi => exec_tableCommand_of_stream hi hm, ?_⟩
    rintro sym hm rfl hl
    exact exec_enc_of_invalid hm hl
  · obtain rfl : wordResult w s = t := by simpa [execWord_eq_next] using ht
    calc newFlags s (wordResult w s) = newFlags s ((wordEvent s w).apply s) := newFlags_congr s (wordResult_sameRecord w s)
      _ ≤ 1 := newFlags_apply_le_one s (wordEvent s w)

end Sys2Proof.Machine
end

section
/-! SUPPORT. The words of commands as numbers (R102-R105, R111), the two round trips of the encoding (R108), and words
on a platform bus (R75). -/

namespace Sys2Proof

/-! ### Words as numbers -/

/-- A field that fits in the word at its place is its value times the weight of its lowest bit. -/
theorem place_toNat {n lo : Nat} (h : lo + n ≤ 32) (f : BitVec n) : (place lo f).toNat = f.toNat * 2 ^ lo := by
  have hlt : f.toNat * 2 ^ lo < 2 ^ 32 := calc
    f.toNat * 2 ^ lo < 2 ^ n * 2 ^ lo := Nat.mul_lt_mul_of_pos_right f.isLt (Nat.two_pow_pos lo)
    _ = 2 ^ (lo + n) := by rw [Nat.add_comm, Nat.pow_add]
    _ ≤ 2 ^ 32 := Nat.pow_le_pow_right (by decide) h
  have hf : f.toNat < 2 ^ 32 := f.isLt.trans_le (Nat.pow_le_pow_right (by decide) (by omega))
  rw [place, BitVec.toNat_shiftLeft, BitVec.toNat_setWidth, Nat.mod_eq_of_lt hf, Nat.shiftLeft_eq, Nat.mod_eq_of_lt hlt]

/-- A field placed below all that `a` holds adds its value. -/
theorem or_place_toNat {a : Word} {n lo : Nat} (h : lo + n ≤ 32) (ha : a.toNat % 2 ^ (lo + n) = 0) (f : BitVec n) :
    (a ||| place lo f).toNat = a.toNat + f.toNat * 2 ^ lo := by
  have hlt : (place lo f).toNat < 2 ^ (lo + n) := by
    rw [place_toNat h, Nat.add_comm, Nat.pow_add]
    exact Nat.mul_lt_mul_of_pos_right f.isLt (Nat.two_pow_pos lo)
  rw [or_toNat_of_lt hlt ha, place_toNat h]

theorem encode_tblLen_toNat (sym : Symbol) (len : BitVec 8) :
    (encode (.tblLen sym len)).toNat = 2 * 2 ^ 28 + sym.toNat * 2 ^ 16 + len.toNat := by
  have hop : (place 28 0x2#4).toNat = 2 * 2 ^ 28 := rfl
  have hsym := or_place_toNat (a := place 28 0x2#4) (lo := 16) (by omega) (by omega) sym
  rw [encode, or_place_toNat (by omega) (by omega), hsym, hop, Nat.pow_zero, Nat.mul_one]

theorem encode_tblBits_toNat (k : BitVec 4) (sym : Symbol) (data : BitVec 16) :
    (encode (.tblBits k sym data)).toNat = 3 * 2 ^ 28 + k.toNat * 2 ^ 24 + sym.toNat * 2 ^ 16 + data.toNat := by
  have hop : (place 28 0x3#4).toNat = 3 * 2 ^ 28 := rfl
  have hk := or_place_toNat (a := place 28 0x3#4) (lo := 24) (by omega) (by omega) k
  have hsym := or_place_toNat (a := place 28 0x3#4 ||| place 24 k) (lo := 16) (by omega) (by omega) sym
  rw [encode, or_place_toNat (by omega) (by omega), hsym, hk, hop, Nat.pow_zero, Nat.mul_one]

theorem encode_enc_toNat (sym : Symbol) : (encode (.enc sym)).toNat = 4 * 2 ^ 28 + sym.toNat * 2 ^ 16 := by
  have hop : (place 28 0x4#4).toNat = 4 * 2 ^ 28 := rfl
  rw [encode, or_place_toNat (by omega) (by omega), hop]

/-! ### The round trips -/

/-- The operands of a command have the widths of their fields (R106). -/
theorem wellFormed_instr (i : Instr) : i.wellFormed = true := by
  cases i with
  | nop | tblClear | flush | clrStatus => rfl
  | tblLen sym len => simp [Instr.wellFormed, symInRange, lenInRange, sym.isLt, len.isLt]
  | tblBits k sym data => simp [Instr.wellFormed, chunkInRange, symInRange, dataInRange, k.isLt, sym.isLt, data.isLt]
  | enc sym => simp [Instr.wellFormed, symInRange, sym.isLt]

/-- Settles O1: the operands have their fields' widths, and the decoder reads every field of an encoded word back. -/
theorem decodeOfEncodeIsTheCommand : Obligations.DecodeOfEncodeIsTheCommand :=
  fun i => ⟨wellFormed_instr i, decode_encode i⟩

/-- A format F0 word is its opcode at bit 28 (R102). -/
theorem toNat_of_restField_eq_zero {w : Word} {op : BitVec 4} (hop : opField w = op) (hrest : restField w = 0#28) :
    w.toNat = op.toNat * 2 ^ 28 := by
  have hrest := congrArg BitVec.toNat hrest
  rw [restField_toNat, BitVec.toNat_ofNat] at hrest
  rw [← hop, opField_toNat]
  omega

/-- Settles O2: in each format the opcode, the operands and the zero reserved bits make up the whole word. -/
theorem encodeOfDecodeIsTheWord : Obligations.EncodeOfDecodeIsTheWord := by
  intro w i hd
  apply BitVec.eq_of_toNat_eq
  obtain ⟨rfl, hop, hrest⟩ | ⟨rfl, hop, hrest⟩ | ⟨rfl, hop, hk, hmid⟩ | ⟨rfl, hop⟩ | ⟨rfl, hop, hk, hdata⟩ |
    ⟨rfl, hop, hrest⟩ | ⟨rfl, hop, hrest⟩ := decode_eq_instr hd
  case inr.inr.inl =>
    simp only [← BitVec.toNat_inj, opField_toNat, kField_toNat, midField_toNat, BitVec.toNat_ofNat] at hop hk hmid
    rw [encode_tblLen_toNat, symField_toNat, lenField_toNat]
    omega
  case inr.inr.inr.inl =>
    simp only [← BitVec.toNat_inj, opField_toNat, BitVec.toNat_ofNat] at hop
    rw [encode_tblBits_toNat, kField_toNat, symField_toNat, dataField_toNat]
    omega
  case inr.inr.inr.inr.inl =>
    simp only [← BitVec.toNat_inj, opField_toNat, kField_toNat, dataField_toNat, BitVec.toNat_ofNat] at hop hk hdata
    rw [encode_enc_toNat, symField_toNat]
    omega
  all_goals
    rw [toNat_of_restField_eq_zero hop hrest]
    rfl

/-- Settles O5, by evaluation of the decoder on the eight words. -/
theorem wordsOfTheVectorsDecode : Obligations.WordsOfTheVectorsDecode :=
  ⟨rfl, rfl, rfl, rfl, rfl, rfl, rfl, rfl⟩

/-! ### The assembler (R111) -/

/-- An assembled command with its operands in range, and no word otherwise. -/
theorem assemble_eq_ite {c : AsmCmd} {p : Prop} [Decidable p] {i : Instr} {n : Nat} (hwf : c.wellFormed = true ↔ p)
    (hexpand : Asm.expandUnchecked c = [i]) (hword : p → (encode i).toNat = n) :
    Asm.assemble c = if p then some [BitVec.ofNat 32 n] else none := by
  by_cases hp : p
  · have hw : encode i = BitVec.ofNat 32 n := by rw [← hword hp, BitVec.ofNat_toNat, BitVec.setWidth_eq]
    simp [Asm.assemble, Asm.expand, hwf.mpr hp, hexpand, hw, hp]
  · simp [Asm.assemble, Asm.expand, mt hwf.mp hp, hp]

/-- Settles O59: in range an operand is the value of its field, so the word is the sum of the placed operands. -/
theorem assemblerWordsAndRanges : Obligations.AssemblerWordsAndRanges := by
  refine ⟨fun sym len => ?_, fun sym k data => ?_, fun sym => ?_, by decide, by decide, by decide, by decide⟩
  · refine assemble_eq_ite (by simp [AsmCmd.wellFormed, symInRange, lenInRange]) rfl fun ⟨hsym, hlen⟩ => ?_
    rw [encode_tblLen_toNat, BitVec.toNat_ofNat, BitVec.toNat_ofNat]
    omega
  · refine assemble_eq_ite (by simp [AsmCmd.wellFormed, symInRange, chunkInRange, dataInRange, and_assoc]) rfl
      fun ⟨hsym, hk, hdata⟩ => ?_
    rw [encode_tblBits_toNat, BitVec.toNat_ofNat, BitVec.toNat_ofNat, BitVec.toNat_ofNat]
    omega
  · refine assemble_eq_ite (by simp [AsmCmd.wellFormed, symInRange]) rfl fun hsym => ?_
    rw [encode_enc_toNat, BitVec.toNat_ofNat]
    omega

/-! ### Words on a platform bus (R75) -/

/-- A word is the union of its four bytes, each at its place. -/
theorem union_of_bytes (w : Word) :
    place 24 (w.extractLsb' 24 8) ||| place 16 (w.extractLsb' 16 8) ||| place 8 (w.extractLsb' 8 8) |||
      place 0 (w.extractLsb' 0 8) = w := by
  apply BitVec.eq_of_toNat_eq
  have h3 := place_toNat (lo := 24) (by omega) (w.extractLsb' 24 8)
  have h2 := or_place_toNat (a := place 24 (w.extractLsb' 24 8)) (lo := 16) (by omega) (by omega) (w.extractLsb' 16 8)
  have h1 := or_place_toNat (a := place 24 (w.extractLsb' 24 8) ||| place 16 (w.extractLsb' 16 8)) (lo := 8)
    (by omega) (by omega) (w.extractLsb' 8 8)
  rw [or_place_toNat (by omega) (by omega), h1, h2, h3]
  simp only [BitVec.extractLsb'_toNat, Nat.shiftRight_eq_div_pow]
  omega

theorem decodeBytes_wordBytes (e : Endian) (w : Word) (rest : List Byte) :
    decodeBytes e (wordBytes e w ++ rest) = some (decode w, rest) := by
  cases e <;> simp [decodeBytes, wordBytes, wordOfBytes, union_of_bytes]

/-- Settles O60: the four bytes put together in either order are the word. -/
theorem platformBytesCarryTheWord : Obligations.PlatformBytesCarryTheWord := by
  refine fun e w rest => ⟨decodeBytes_wordBytes e w rest, rfl, fun b hb => ?_⟩
  obtain rfl : w.extractLsb' 0 8 = b := by simpa [wordBytes] using hb
  simp [BitVec.extractLsb'_toNat]

end Sys2Proof
end

section
/-! SUPPORT. One step by its event (R72, R73, R300, R450): a word accepted, an item held back or handed over, a reset;
and runs of steps while items wait. -/

namespace Sys2Proof.Machine

/-! ### A word is accepted -/

/-- Settles O8: the clock edge answers a next state on every path. -/
theorem everyStepAnswersNext : Obligations.EveryStepAnswersNext := fun s => exists_clockEdge s.pins s.advance

/-- Settles O6: the word transfers, and `State.advance` takes it from the host's list. -/
theorem stepRunsTheTransferredCommand : Obligations.StepRunsTheTransferredCommand := by
  intro s w rest i hser hrst hoffer hcmds hd
  have hdata : s.pins.cmdData = w := by simp [State.pins, hcmds]
  have hc : cmdTransfers s.pins s = true := by simp [cmdTransfers_iff, State.pins, hser, hrst, hoffer, hcmds]
  rw [step, cycleStep, clockEdge_of_cmdTransfers ((cmdTransfers_advance _ _).trans hc), hdata, execWord_of_instr hd,
    State.advance, if_pos hc, hcmds, List.tail_cons]

/-- Settles O7: the placed word is offered to an empty queue in a cycle without reset, so O6 applies. -/
theorem stepRunsTheFetchedWord : Obligations.StepRunsTheFetchedWord := by
  intro s nbits w i hd
  have hd' : decode (BitVec.ofNat 32 (w % 2 ^ nbits)) = .instr i := by
    rw [decodeTableWord] at hd
    cases h : decode (BitVec.ofNat 32 (w % 2 ^ nbits)) with
    | instr j => simpa [h, Decoded.instr?] using hd
    | illegal r => simp [h, Decoded.instr?] at hd
  exact stepRunsTheTransferredCommand (s.withFetchWord nbits w) _ s.cmds i rfl rfl rfl rfl hd'

/-! ### Items wait -/

/-- While items wait no word transfers (R72). -/
theorem cmdTransfers_of_busy {s : State} (p : PinsIn) (hser : s.ser ≠ []) : cmdTransfers p s = false := by
  simp [cmdTransfers, cmdReady, hser]

theorem advance_of_busy {s : State} (hser : s.ser ≠ []) :
    s.advance = { s with env := s.env.tail, draws := s.draws + 1 } := by
  simp [State.advance, cmdTransfers_of_busy s.pins hser]

/-- While items wait, a step without reset is a serializer step or changes nothing, as the consumer decides. -/
theorem step_of_busy {s : State} (hser : s.ser ≠ []) (hr : s.pins.rst = false) :
    step s = .next (if s.pins.outReady then serializerStep s.advance else s.advance) :=
  clockEdge_of_busy (s := s.advance) hser hr

theorem step_of_stall {s : State} (hser : s.ser ≠ []) (hr : s.pins.rst = false) (hstall : s.pins.outReady = false) :
    step s = .next { s with env := s.env.tail, draws := s.draws + 1 } := by
  rw [step_of_busy hser hr, hstall, if_neg Bool.false_ne_true, advance_of_busy hser]

/-- Settles O12: the stalled step keeps the queue, so the next cycle presents the same head item. -/
theorem stalledItemIsHeld : Obligations.StalledItemIsHeld := by
  intro s hser hr hstall
  refine ⟨_, step_of_stall hser hr hstall, rfl, fun hr' => ?_⟩
  obtain ⟨item, rest, hcons⟩ := List.exists_cons_of_ne_nil hser
  have hpins := (itemPins_of_cons (s := { s with env := s.env.tail, draws := s.draws + 1 }) hcons hr').trans
    (itemPins_of_cons hcons hr).symm
  refine ⟨(outputs_outValid_iff _ _).mpr ⟨hser, hr'⟩, congrArg Prod.fst hpins, congrArg Prod.snd hpins, ?_⟩
  · exact Bool.eq_false_iff.mpr fun hready => hser ((outputs_cmdReady_iff _ _).mp hready).1

/-! ### Runs while items wait -/

theorem envAt_succ {s t : State} (h : step s = .next t) (i : Nat) : s.envAt (i + 1) = t.envAt i := by
  cases he : s.env <;> simp [State.envAt, step_env h, he]

/-- The coming cycle is ready or not, and the others are those after the step. -/
theorem readyCycles_succ {s t : State} (n : Nat) (h : step s = .next t) :
    s.readyCycles (n + 1) = s.pins.outReady.toNat + t.readyCycles n := by
  have hnow : (s.envAt 0).outReady = s.pins.outReady := by rw [← envNow_eq_envAt]; rfl
  rw [State.readyCycles, State.readyCycles, List.range_succ_eq_map, List.countP_cons, List.countP_map, hnow,
    Nat.add_comm]
  simp only [Function.comp_def, Nat.succ_eq_add_one, envAt_succ h]
  cases s.pins.outReady <;> rfl

/-- Settles O42, by induction on the cycles: a ready one hands over the head item, and any other leaves the queue. -/
theorem readyConsumerDrainsTheQueue : Obligations.ReadyConsumerDrainsTheQueue := by
  intro n
  induction n with
  | zero =>
    intro s _ hready
    have hser : s.ser = [] := List.length_eq_zero_iff.mp (Nat.le_zero.mp hready)
    exact ⟨0, le_rfl, s, runSteps_zero s, hser, by simp [hser]⟩
  | succ n ih =>
    intro s hr hready
    cases hser : s.ser with
    | nil => exact ⟨0, Nat.zero_le _, s, runSteps_zero s, hser, by simp⟩
    | cons item rest =>
      obtain ⟨t, hs⟩ := everyStepAnswersNext s
      obtain ⟨hrst, hr'⟩ := noReset_succ hr hs
      have ht : t = if s.pins.outReady then serializerStep s.advance else s.advance :=
        Host.Outcome.next.inj (hs.symm.trans (step_of_busy (by simp [hser]) hrst))
      have hitems : t.out ++ t.ser = s.out ++ s.ser := by
        rw [ht]
        split
        · exact serializerStep_items s.advance
        · rfl
      have hlen : t.ser.length + s.pins.outReady.toNat = s.ser.length := by
        rw [ht]
        cases s.pins.outReady <;> simp [hser]
      rw [readyCycles_succ n hs] at hready
      obtain ⟨m, hm, u, hrun, huser, huout⟩ := ih t hr' (by omega)
      exact ⟨m + 1, Nat.succ_le_succ hm, u, by rw [runSteps_succ m hs, hrun], huser, by rw [huout, hitems, hser]⟩

/-- Settles O43, by induction on the cycles: each is a stalled step. -/
theorem unreadyConsumerStopsTheBlock : Obligations.UnreadyConsumerStopsTheBlock := by
  intro n
  induction n with
  | zero => exact fun s _ _ _ => ⟨rfl, rfl⟩
  | succ n ih =>
    intro s hr hready hser
    obtain ⟨t, hs⟩ := everyStepAnswersNext s
    obtain ⟨hrst, hr'⟩ := noReset_succ hr hs
    rw [readyCycles_succ n hs, Nat.add_eq_zero_iff, Bool.toNat_eq_zero] at hready
    obtain ⟨hstall, hready'⟩ := hready
    obtain rfl := Host.Outcome.next.inj ((step_of_stall hser hrst hstall).symm.trans hs)
    obtain ⟨hrun, hwords⟩ := ih _ hr' hready' hser
    have hnone : s.wordTransferring = none := by simp [State.wordTransferring, cmdTransfers_of_busy s.pins hser]
    rw [runSteps_succ n hs, wordsTransferred_succ n hs, hrun, hwords, hnone]
    simp [Nat.add_assoc, Nat.add_comm 1]

/-! ### Reset -/

/-- Settles O13: both handshakes ask for `rst = 0`, and the edge is `resetBlock`. -/
theorem resetEdgeClearsTheBlock : Obligations.ResetEdgeClearsTheBlock := by
  intro p s hr
  refine ⟨by simp [outputs, cmdReady, hr], by simp [outputs, outValid, hr], rfl, rfl, resetBlock s,
    clockEdge_of_rst s hr, fun sym => by simp [Entry.valid], rfl, rfl, rfl, rfl, rfl, rfl, rfl, rfl, rfl, rfl, rfl,
    resetBlock_delivered s, rfl⟩

/-- The reset values (R56) that STATUS, the table registers and a lookup see: no entry valid, mode IDLE, the queue
empty, the flags and ERR_SYM 0. -/
structure State.AtReset (t : State) : Prop where
  len : ∀ sym, (t.entry sym).len = 0#8
  mode : t.mode = .idle
  ser : t.ser = []
  errSnf : t.errSnf = false
  errIll : t.errIll = false
  errTbl : t.errTbl = false
  errSym : t.errSym = 0#8

theorem reset_atReset : State.reset.AtReset := ⟨by simp, rfl, rfl, rfl, rfl, rfl, rfl⟩

theorem resetBlock_atReset (s : State) : (resetBlock s).AtReset := ⟨by simp, rfl, rfl, rfl, rfl, rfl, rfl⟩

section
variable {t : State} (h : t.AtReset)
include h

theorem State.AtReset.nvalid : t.nvalid = 0 := by
  simp [nvalid_eq_countP, h.len]

theorem State.AtReset.lenSum : t.lenSum = 0 := by
  rw [lenSum_eq_sum, List.sum_eq_zero_iff, List.forall_mem_map]
  exact fun x _ => by rw [h.len, BitVec.toNat_zero]

theorem State.AtReset.status : t.status = 0#32 := by
  simp [State.status, State.serBusy, h.mode, h.ser, h.errSnf, h.errIll, h.errTbl, h.errSym, Mode.bits, place]

theorem State.AtReset.errIrq : t.errIrq = false := by
  simp [State.errIrq, h.errSnf, h.errIll, h.errTbl]

theorem State.AtReset.exec_enc (sym : Symbol) :
    exec (.enc sym) t = .next { t with errSnf := true, errSym := sym, mode := .error } := by
  rw [exec_enc_of_invalid (by simp [h.mode]) (h.len sym), raiseError, recordError_snf_of_clear sym h.errSnf,
    State.setMode]

end

/-- Settles O14: the reset state and the state after a reset edge hold the reset values, whatever the environment. -/
theorem readsAndLookupsAfterReset : Obligations.ReadsAndLookupsAfterReset := by
  intro t ht
  have h : t.AtReset := by
    obtain rfl | ⟨p, s, hr, hedge⟩ := ht
    · exact reset_atReset
    · obtain rfl : resetBlock s = t := by simpa [clockEdge_of_rst s hr] using hedge
      exact resetBlock_atReset s
  refine ⟨?_, ?_, ?_, h.errIrq, fun p hr => ?_, h.exec_enc⟩
  · show CsrResp.ok t.status = _
    rw [h.status, CsrResp.ok]
  · show CsrResp.ok (BitVec.ofNat 32 t.nvalid) = _
    rw [h.nvalid, CsrResp.ok]
  · show CsrResp.ok (BitVec.ofNat 32 t.lenSum) = _
    rw [h.lenSum, CsrResp.ok]
  · exact (outputs_cmdReady_iff p t).mpr ⟨h.ser, hr⟩

end Sys2Proof.Machine
end

section
/-! SUPPORT. What a step may do to the queue, the table and the mode (R36, R55, R240), said once for each; and the
invariant of the block. -/

namespace Sys2Proof.Machine

/-! ### The queue and the invariant (R36, R41, R301) -/

theorem serOk_nil : serOk [] := .inl ⟨[], rfl, by simp⟩

theorem serOk_code (e : Entry) : serOk (e.code.map .bit) := .inl ⟨e.code, rfl, code_length_le e⟩

theorem serOk_endMark (f : Bool) : serOk [.endMark f] := .inr ⟨f, rfl⟩

theorem serOk_tail {ser : List Item} (h : serOk ser) : serOk ser.tail := by
  obtain ⟨bits, rfl, hlen⟩ | ⟨f, rfl⟩ := h
  · exact .inl ⟨bits.tail, List.map_tail.symm, by rw [List.length_tail]; omega⟩
  · exact serOk_nil

/-- A command that starts on an empty queue leaves its own items there (R36). -/
theorem resultOf_serOk (i : Instr) {s : State} (hser : s.ser = []) : serOk (resultOf i s).ser := by
  obtain ⟨-, h⟩ | ⟨-, h⟩ | ⟨-, h⟩ | ⟨-, h⟩ | ⟨-, h⟩ | ⟨_, -, -, -, h⟩ | ⟨sym, -, -, -, h⟩ | ⟨-, -, h⟩ |
    ⟨_, _, -, -, h⟩ :=
    resultOf_cases i s <;> rw [h]
  case inr.inr.inl => simpa [hser] using serOk_endMark _
  case inr.inr.inr.inr.inr.inr.inl => simpa [hser] using serOk_code (s.entry sym)
  all_goals simpa [hser] using serOk_nil

theorem step_serOk {s t : State} (h : step s = .next t) (hs : serOk s.ser) : serOk t.ser := by
  obtain ⟨-, rfl⟩ | ⟨i, hc, -, rfl⟩ | ⟨r, -, -, rfl⟩ | ⟨-, rfl⟩ | ⟨-, -, -, rfl⟩ := step_cases h
  · exact serOk_nil
  · exact resultOf_serOk i (s := s.advance) ((cmdTransfers_iff _ _).mp hc).2.1
  · simpa using hs
  · simpa using serOk_tail hs
  · exact hs

/-- While ERR_SNF stays 0 no event writes ERR_SYM but to clear it (R41). -/
theorem step_errSym_eq_zero {s t : State} (h : step s = .next t) (hs : s.errSnf = false → s.errSym = 0#8)
    (ht : t.errSnf = false) : t.errSym = 0#8 := by
  rw [(step_sameRecord h).errSnf] at ht
  rw [(step_sameRecord h).errSym]
  cases he : s.event with
  | clear => rfl
  | miss sym => simp [he] at ht
  | keep | hit | ill | tbl | drop => simpa [he] using hs (by simpa [he] using ht)

/-- Settles O33: a command leaves its own items on an empty queue, every other event only takes items away, and ERR_SYM
is written together with ERR_SNF. -/
theorem blockInvariantIsKept : Obligations.BlockInvariantIsKept :=
  fun _ _ ⟨hser, hsym⟩ h => ⟨step_serOk h hser, step_errSym_eq_zero h hsym⟩

/-- Settles O34: the queue is empty and ERR_SYM is 0 after reset. -/
theorem blockInvariantAtReset : Obligations.BlockInvariantAtReset := ⟨serOk_nil, fun _ => rfl⟩

/-! ### The table (R240) -/

theorem tableGuard_table {effect : State → State} {s : State} (hm : s.mode ≠ .idle) :
    (tableGuard effect s).table = s.table := by
  obtain ⟨-, h⟩ | ⟨-, h⟩ | ⟨hidle, -⟩ := tableGuard_cases effect s
  · rw [h, discard_table]
  · rw [h, raiseError_table]
  · exact absurd hidle hm

theorem resultOf_enc_table (sym : Symbol) (s : State) : (resultOf (.enc sym) s).table = s.table := by
  obtain ⟨-, h⟩ | ⟨-, -, h⟩ | ⟨-, -, h⟩ := enc_cases sym s <;> simp [h]

theorem resultOf_table (i : Instr) (s : State) (h : (resultOf i s).table ≠ s.table) :
    s.mode = .idle ∧ isTableCommand i = true := by
  cases i with
  | nop | flush | clrStatus => exact absurd rfl h
  | enc sym => exact absurd (resultOf_enc_table sym s) h
  | tblClear | tblLen | tblBits => exact ⟨not_not.mp (mt tableGuard_table h), rfl⟩

/-- Settles O38: of the events of a step only a reset and a command write the table, and of the commands only a table
command in mode IDLE. -/
theorem onlyTableCommandsInIdleChangeTheTable : Obligations.OnlyTableCommandsInIdleChangeTheTable := by
  intro s t h hne
  obtain ⟨hr, -⟩ | ⟨i, hc, hd, rfl⟩ | ⟨r, -, -, rfl⟩ | ⟨-, rfl⟩ | ⟨-, -, -, rfl⟩ := step_cases h
  · exact .inl hr
  · obtain ⟨hm, hi⟩ := resultOf_table i s.advance hne
    exact .inr ⟨hm, i, hi, (executes_iff s i).mpr ⟨hc, hd⟩⟩
  · exact absurd (raiseError_table .ill s.advance) hne
  · exact absurd (serializerStep_table s.advance) hne
  · exact absurd rfl hne

/-! ### The mode (R35, R55) -/

/-- What can become of the mode in a step: the cause stands with each of the three values. -/
inductive ModeMove (s t : State) : Prop
  | kept (h : t.mode = s.mode)
  | toIdle (h : t.mode = .idle) (cause : s.pins.rst = true ∨ s.executes .flush)
  | toStream (h : t.mode = .stream) (hs : s.mode ≠ .error) (cause : ∃ sym, s.hitsOn sym)
  | toError (h : t.mode = .error)
      (cause : s.acceptsIllegal ∨ (∃ sym, s.missesOn sym) ∨
        (s.mode = .stream ∧ ∃ i, isTableCommand i = true ∧ s.executes i))

theorem modeMove_tableCommand {s : State} {i : Instr} {effect : State → State} (hx : s.executes i)
    (hi : isTableCommand i = true) (hkeep : (effect s.advance).mode = s.mode) :
    ModeMove s (tableGuard effect s.advance) := by
  obtain ⟨-, h⟩ | ⟨hm, h⟩ | ⟨-, h⟩ := tableGuard_cases effect s.advance
  · exact .kept (by rw [h, discard_mode, advance_mode])
  · exact .toError (by rw [h, raiseError_mode]) (.inr (.inr ⟨hm, i, hi, hx⟩))
  · exact .kept (by rw [h, hkeep])

theorem modeMove_enc {s : State} {sym : Symbol} (hx : s.executes (.enc sym)) :
    ModeMove s (resultOf (.enc sym) s.advance) := by
  obtain ⟨-, h⟩ | ⟨hm, hl, h⟩ | ⟨hm, hl, h⟩ := enc_cases sym s.advance
  · exact .kept (by rw [h, discard_mode, advance_mode])
  · exact .toError (by rw [h, raiseError_mode]) (.inr (.inl ⟨sym, hx, hm, hl⟩))
  · exact .toStream (by rw [h, encodeSymbol_mode]) hm ⟨sym, hx, hm, hl⟩

theorem modeMove_command {s : State} {i : Instr} (hx : s.executes i) : ModeMove s (resultOf i s.advance) := by
  cases i with
  | nop | clrStatus => exact .kept rfl
  | flush => exact .toIdle rfl (.inr hx)
  | tblClear | tblLen | tblBits =>
    rw [resultOf]
    exact modeMove_tableCommand hx rfl rfl
  | enc sym => exact modeMove_enc hx

theorem step_modeMove {s t : State} (h : step s = .next t) : ModeMove s t := by
  obtain ⟨hr, rfl⟩ | ⟨i, hc, hd, rfl⟩ | ⟨r, hc, hd, rfl⟩ | ⟨-, rfl⟩ | ⟨-, -, -, rfl⟩ := step_cases h
  · exact .toIdle rfl (.inl hr)
  · exact modeMove_command ((executes_iff s i).mpr ⟨hc, hd⟩)
  · exact .toError rfl (.inl ((acceptsIllegal_iff s).mpr ⟨hc, r, hd⟩))
  · exact .kept (serializerStep_mode s.advance)
  · exact .kept rfl

/-- In mode ERROR no table command raises an error and no symbol is looked up (R403). -/
theorem event_of_error {s : State} (hm : s.mode = .error) : s.event ≠ .tbl ∧ ∀ sym, s.event ≠ .miss sym := by
  refine ⟨fun he => ?_, fun sym he => ?_⟩
  · obtain ⟨i, -, -, hstream⟩ := (tableError_iff s).mpr he
    simp [hm] at hstream
  · obtain ⟨-, hne, -⟩ := (missesOn_iff s sym).mpr he
    exact hne hm

/-- The flags after a step from mode ERROR: only ERR_ILL can be new. -/
theorem step_flags_of_error {s t : State} (h : step s = .next t) (hm : s.mode = .error) :
    (t.errSnf = true → s.errSnf = true) ∧ (t.errTbl = true → s.errTbl = true) ∧
      (t.errIll = true → s.errIll = true ∨ s.acceptsIllegal) := by
  obtain ⟨htbl, hmiss⟩ := event_of_error hm
  rw [step_errSnf_iff h, step_errTbl_iff h, step_errIll_iff h, acceptsIllegal_iff_event]
  exact ⟨fun ⟨_, hf⟩ => hf.resolve_right (not_exists.mpr hmiss), fun ⟨_, hf⟩ => hf.resolve_right htbl, And.right⟩

theorem mode_eq_idle {m : Mode} (he : m ≠ .error) (hs : m ≠ .stream) : m = .idle := by
  cases m with
  | idle => rfl
  | stream => exact absurd rfl hs
  | error => exact absurd rfl he

/-- Settles O39: each clause asks for a move of the mode, and `ModeMove` names its cause. -/
theorem modeMovesOnlyAsTheRulesSay : Obligations.ModeMovesOnlyAsTheRulesSay := by
  intro s t h
  have hmove := step_modeMove h
  have intoIdle : s.mode ≠ .idle → t.mode = .idle → s.pins.rst = true ∨ s.executes .flush := fun hs ht => by
    cases hmove with
    | kept hk => exact absurd (hk.symm.trans ht) hs
    | toIdle _ cause => exact cause
    | toStream hk _ _ | toError hk _ => cases hk.symm.trans ht
  refine ⟨fun hs ht => ?_, fun hs ht => ?_, intoIdle, fun hs ht => ?_, step_flags_of_error h⟩
  · cases hmove with
    | kept hk => exact absurd (hk.symm.trans ht) hs
    | toStream _ hne cause => exact ⟨mode_eq_idle hne hs, cause⟩
    | toIdle hk _ | toError hk _ => cases hk.symm.trans ht
  · cases hmove with
    | kept hk => exact absurd (hk.symm.trans ht) hs
    | toError _ cause => exact cause
    | toIdle hk _ | toStream hk _ _ => cases hk.symm.trans ht
  · have hidle : t.mode = .idle := by
      cases hmove with
      | kept hk => exact absurd (hk.trans hs) ht
      | toIdle hk _ => exact hk
      | toStream _ hne _ => exact absurd hs hne
      | toError hk _ => exact absurd hk ht
    exact ⟨hidle, intoIdle (by simp [hs]) hidle⟩

end Sys2Proof.Machine
end

section
/-! SUPPORT. Runs as the words they transfer (R303), and the hidden code cells (R34): states that differ only in cells
at or above LEN read alike, and every event of a step keeps them so. -/

namespace Sys2Proof.Machine

/-- Settles O41: a run without reset has the effect of its words, started on the same state. -/
theorem runRefinesTheWordSequence : Obligations.RunRefinesTheWordSequence := by
  intro n s t hr h
  obtain ⟨u, hwords, heff⟩ := exists_runWords_sameEffect (.refl s) hr h
  exact ⟨u, hwords, heff.items, heff.control⟩

/-! ### Entries with one code -/

theorem sameCode_refl (e : Entry) : e.sameCode e := ⟨rfl, fun _ _ => rfl⟩

section
variable {a b : Entry} (h : a.sameCode b)
include h

theorem code_eq_of_sameCode : a.code = b.code := code_congr h.1 h.2

theorem visible_eq_of_sameCode : a.visible = b.visible := by
  obtain ⟨hlen, hcell⟩ := h
  apply BitVec.eq_of_getLsbD_eq
  intro i _
  rw [visible_getLsbD, visible_getLsbD, ← hlen]
  by_cases hi : i < a.len.toNat
  · rw [hcell i hi]
  · rw [decide_eq_false hi, Bool.false_and, Bool.false_and]

theorem withChunk_sameCode (k : BitVec 4) (data : BitVec 16) : (a.withChunk k data).sameCode (b.withChunk k data) := by
  obtain ⟨hlen, hcell⟩ := h
  refine ⟨hlen, fun i hi => ?_⟩
  rw [withChunk_cell, withChunk_cell, hcell i hi]

end

/-! ### States that differ in the table alone -/

theorem sameExceptTable_symm {s t : State} (h : sameExceptTable s t) : sameExceptTable t s := calc
  s = { ({ s with table := t.table } : State) with table := s.table } := rfl
  _ = { t with table := s.table } := congrArg (fun u : State => { u with table := s.table }) h.symm

theorem sameExceptTable_trans {s t u : State} (h : sameExceptTable s t) (h' : sameExceptTable t u) :
    sameExceptTable s u := calc
  u = { t with table := u.table } := h'
  _ = { s with table := u.table } := congrArg (fun v : State => { v with table := u.table }) h

/-- What does not depend on the table agrees. -/
theorem eq_of_sameExceptTable {α : Type} {s t : State} (h : sameExceptTable s t) (g : State → α)
    (hg : ∀ T, g { s with table := T } = g s) : g t = g s := (congrArg g h).trans (hg t.table)

/-- The effect `f` on `s` neither reads nor writes the table. -/
def TableBlind (f : State → State) (s : State) : Prop :=
  ∀ T, f { s with table := T } = { f s with table := T }

theorem discard_tableBlind (s : State) : TableBlind discard s := fun _ => rfl

theorem raiseError_tableBlind (k : ErrorKind) (s : State) : TableBlind (raiseError k) s := fun _ => by
  cases k <;> rfl

theorem advance_tableBlind (s : State) : TableBlind State.advance s := fun _ => rfl

theorem serializerStep_tableBlind (s : State) : TableBlind serializerStep s := fun T => by
  cases hser : s.ser <;> simp [serializerStep, hser]

/-! ### States that differ in hidden cells alone -/

theorem resetBlock_sameButHidden {s t : State} (h : sameExceptTable s t) :
    sameButHidden (resetBlock s) (resetBlock t) := by
  have heq : resetBlock t = resetBlock s := by
    rw [h]
    rfl
  exact heq ▸ ⟨fun sym => sameCode_refl _, rfl⟩

section
variable {s t : State} (h : sameButHidden s t)
include h

theorem entry_sameCode (sym : Symbol) : (s.entry sym).sameCode (t.entry sym) := h.1 sym

theorem sameExceptTable_of_sameButHidden : sameExceptTable s t := h.2

theorem ser_eq_of_sameButHidden : t.ser = s.ser := eq_of_sameExceptTable h.2 State.ser fun _ => rfl

theorem mode_eq_of_sameButHidden : t.mode = s.mode := eq_of_sameExceptTable h.2 State.mode fun _ => rfl

theorem pins_eq_of_sameButHidden : t.pins = s.pins := eq_of_sameExceptTable h.2 State.pins fun _ => rfl

/-- A write to the tables alone keeps the difference hidden if it does so entry by entry. -/
theorem sameButHidden_of_tableWrites {s' t' : State} (hs : sameExceptTable s s') (ht : sameExceptTable t t')
    (hentry : ∀ sym, (s'.entry sym).sameCode (t'.entry sym)) : sameButHidden s' t' :=
  ⟨hentry, sameExceptTable_trans (sameExceptTable_symm hs)
    (sameExceptTable_trans (sameExceptTable_of_sameButHidden h) ht)⟩

theorem TableBlind.sameButHidden {f : State → State} (hf : TableBlind f s) : sameButHidden (f s) (f t) := by
  have hs : f s = { f s with table := s.table } := hf s.table
  have ht : f t = { f s with table := t.table } := (congrArg f h.2).trans (hf t.table)
  have hstable : (f s).table = s.table := by rw [hs]
  have httable : (f t).table = t.table := by rw [ht]
  refine ⟨fun sym => ?_, by rw [httable]; exact ht⟩
  rw [entry_congr hstable, entry_congr httable]
  exact entry_sameCode h sym

theorem setEntry_sameButHidden (sym : Symbol) {a b : Entry} (hab : a.sameCode b) :
    sameButHidden (s.setEntry sym a) (t.setEntry sym b) := by
  refine sameButHidden_of_tableWrites h (sameExceptTable_setEntry ..) (sameExceptTable_setEntry ..) fun x => ?_
  rw [entry_setEntry, entry_setEntry]
  split
  · exact hab
  · exact entry_sameCode h x

theorem clearLens_sameButHidden : sameButHidden s.clearLens t.clearLens := by
  refine sameButHidden_of_tableWrites h (sameExceptTable_clearLens s) (sameExceptTable_clearLens t) fun x => ?_
  rw [entry_clearLens, entry_clearLens]
  exact ⟨rfl, by simp⟩

theorem tableGuard_sameButHidden {effect : State → State} (he : sameButHidden (effect s) (effect t)) :
    sameButHidden (tableGuard effect s) (tableGuard effect t) := by
  have hmode := mode_eq_of_sameButHidden h
  cases hm : s.mode with
  | idle => rwa [tableGuard_of_idle _ hm, tableGuard_of_idle _ (hmode.trans hm)]
  | stream =>
    rw [tableGuard_of_stream _ hm, tableGuard_of_stream _ (hmode.trans hm)]
    exact (raiseError_tableBlind .tbl s).sameButHidden h
  | error =>
    rw [tableGuard_of_error _ hm, tableGuard_of_error _ (hmode.trans hm)]
    exact (discard_tableBlind s).sameButHidden h

/-- A successful ENC reads the code alone. -/
theorem encodeSymbol_sameButHidden (sym : Symbol) : sameButHidden (encodeSymbol sym s) (encodeSymbol sym t) := by
  have hlen := (entry_sameCode h sym).1
  have hcode := code_eq_of_sameCode (entry_sameCode h sym)
  rw [encodeSymbol, encodeSymbol, ← hlen, ← hcode]
  exact TableBlind.sameButHidden h
    (f := fun u => countSymbol (s.entry sym).len ((u.emit ((s.entry sym).code.map .bit)).setMode .stream)) fun _ => rfl

theorem enc_sameButHidden (sym : Symbol) : sameButHidden (resultOf (.enc sym) s) (resultOf (.enc sym) t) := by
  have hlen := (entry_sameCode h sym).1
  simp only [resultOf, mode_eq_of_sameButHidden h, ← hlen]
  split_ifs
  · exact (discard_tableBlind s).sameButHidden h
  · exact (raiseError_tableBlind (.snf sym) s).sameButHidden h
  · exact encodeSymbol_sameButHidden h sym

theorem resultOf_sameButHidden (i : Instr) : sameButHidden (resultOf i s) (resultOf i t) := by
  cases i with
  | nop => exact h
  | clrStatus => exact TableBlind.sameButHidden h (f := clearStatus) fun _ => rfl
  | flush => exact TableBlind.sameButHidden h (f := resultOf .flush) fun _ => rfl
  | tblClear => exact tableGuard_sameButHidden h (clearLens_sameButHidden h)
  | tblLen sym len => exact tableGuard_sameButHidden h (setEntry_sameButHidden h sym (sameCode_refl _))
  | tblBits k sym data =>
    exact tableGuard_sameButHidden h
      (setEntry_sameButHidden h sym (withChunk_sameCode (entry_sameCode h sym) k data))
  | enc sym => exact enc_sameButHidden h sym

theorem wordResult_sameButHidden (w : Word) : sameButHidden (wordResult w s) (wordResult w t) := by
  unfold wordResult
  cases decode w with
  | instr i => exact resultOf_sameButHidden h i
  | illegal _ => exact (raiseError_tableBlind .ill s).sameButHidden h

end

/-! ### A step -/

/-- The state a clock edge leads to. -/
def edgeResult (p : PinsIn) (s : State) : State :=
  if p.rst then resetBlock s
  else if cmdTransfers p s then wordResult p.cmdData s
  else if itemTransfers p s then serializerStep s
  else s

theorem clockEdge_eq_next (p : PinsIn) (s : State) : clockEdge p s = .next (edgeResult p s) := by
  unfold clockEdge edgeResult
  split_ifs
  · rfl
  · exact execWord_eq_next p.cmdData s
  · rfl
  · rfl

theorem edgeResult_sameButHidden {s t : State} (h : sameButHidden s t) (p : PinsIn) :
    sameButHidden (edgeResult p s) (edgeResult p t) := by
  have hcmd : cmdTransfers p t = cmdTransfers p s := by
    rw [cmdTransfers, cmdTransfers, cmdReady, cmdReady, ser_eq_of_sameButHidden h]
  have hitem : itemTransfers p t = itemTransfers p s := by
    rw [itemTransfers, itemTransfers, outValid, outValid, ser_eq_of_sameButHidden h]
  unfold edgeResult
  rw [hcmd, hitem]
  split_ifs
  · exact resetBlock_sameButHidden (sameExceptTable_of_sameButHidden h)
  · exact wordResult_sameButHidden h p.cmdData
  · exact (serializerStep_tableBlind s).sameButHidden h
  · exact h

theorem step_sameButHidden {s t s' t' : State} (h : sameButHidden s t) (hs : step s = .next s')
    (ht : step t = .next t') : sameButHidden s' t' := by
  rw [step, cycleStep, clockEdge_eq_next, Host.Outcome.next.injEq] at hs ht
  rw [← hs, ← ht, pins_eq_of_sameButHidden h]
  exact edgeResult_sameButHidden ((advance_tableBlind s).sameButHidden h) s.pins

/-! ### What is observed (R17) -/

/-- The register port sees the status, the counters, the two sums over the table and the entries (R42). -/
theorem csrRead_congr {s t : State} (hstatus : s.status = t.status) (hsym : s.symCount = t.symCount)
    (hbit : s.bitCount = t.bitCount) (hdrop : s.dropCount = t.dropCount) (hnvalid : s.nvalid = t.nvalid)
    (hlenSum : s.lenSum = t.lenSum) (hentry : ∀ a, csrEntryRead a s = csrEntryRead a t) (a : CsrAddr) :
    csrRead a s = csrRead a t := by
  rw [csrRead, csrRead, hstatus, hsym, hbit, hdrop, hnvalid, hlenSum, hentry]

/-- The ports `o` with the answer `r` of a register read. -/
def PinsOut.withRead (o : PinsOut) (r : CsrResp) : PinsOut := { o with csrRdata := r.rdata, csrRerr := r.rerr }

section
variable {s t : State} (h : sameButHidden s t)
include h

theorem csrEntryRead_sameButHidden (a : CsrAddr) : csrEntryRead a s = csrEntryRead a t := by
  have hentry := entry_sameCode h (csrSym a)
  rw [csrEntryRead, csrEntryRead, Entry.chunk, Entry.chunk, Entry.lenWord, Entry.lenWord,
    visible_eq_of_sameCode hentry, hentry.1]

theorem csrRead_sameButHidden (a : CsrAddr) : csrRead a s = csrRead a t := by
  have hframe := sameExceptTable_symm (sameExceptTable_of_sameButHidden h)
  have hlen : ∀ sym, (s.entry sym).len = (t.entry sym).len := fun sym => (entry_sameCode h sym).1
  refine csrRead_congr (eq_of_sameExceptTable hframe State.status fun _ => rfl)
    (eq_of_sameExceptTable hframe State.symCount fun _ => rfl)
    (eq_of_sameExceptTable hframe State.bitCount fun _ => rfl)
    (eq_of_sameExceptTable hframe State.dropCount fun _ => rfl) ?_ ?_ (csrEntryRead_sameButHidden h) a
  · simp only [nvalid_eq_countP, hlen]
  · simp only [lenSum_eq_sum, hlen]

theorem outputs_sameButHidden (p : PinsIn) : outputs p s = outputs p t := by
  have hports : outputs p t = (outputs p s).withRead (csrRead p.csrAddr t) :=
    eq_of_sameExceptTable (sameExceptTable_of_sameButHidden h)
      (fun u => (outputs p u).withRead (csrRead p.csrAddr t)) fun _ => rfl
  rw [hports, ← csrRead_sameButHidden h p.csrAddr]
  rfl

theorem sameObservation_of_sameButHidden : sameObservation s t := by
  have hframe := sameExceptTable_symm (sameExceptTable_of_sameButHidden h)
  exact ⟨eq_of_sameExceptTable hframe State.out fun _ => rfl, eq_of_sameExceptTable hframe State.earlier fun _ => rfl,
    csrRead_sameButHidden h, eq_of_sameExceptTable hframe State.errIrq fun _ => rfl⟩

end

/-- Settles O40: the entries' lengths and codes, all that is read of the table, agree, and every event of a step keeps
the states the same but for hidden cells. -/
theorem hiddenCellsAreNeverObservable : Obligations.HiddenCellsAreNeverObservable :=
  fun _ _ h => ⟨sameObservation_of_sameButHidden h, outputs_sameButHidden h, fun _ _ => step_sameButHidden h⟩

end Sys2Proof.Machine
end

section
/-! SUPPORT. The accumulator decoder over a table in which no code begins another (R340-R343): bits in the middle of a
code only grow the accumulator, and the last bit of a code emits its symbol. -/

namespace Sys2Proof.Ref

/-! ### The inverse of the table -/

theorem CodeTable.symbolOf_eq_none {ct : CodeTable} {acc : BitString} (h : ∀ e ∈ ct, e.2 ≠ acc) :
    ct.symbolOf acc = none := by
  simpa [CodeTable.symbolOf] using h

section
variable {ct : CodeTable} (hmap : ct.isMap) (hpre : ct.prefixFree) {x : Symbol} {c : BitString} (hc : (x, c) ∈ ct)
include hmap hpre hc

/-- Of the table's codes only the code of `x` begins the code of `x`. -/
theorem CodeTable.eq_of_prefix_code {e : Symbol × BitString} (he : e ∈ ct) (h : e.2 <+: c) : e = (x, c) := by
  have hx : e.1 = x := by_contra fun hne => hpre e he (x, c) hc hne h
  have hcode := CodeTable.codeOf_eq_of_mem hmap he
  rw [hx, CodeTable.codeOf_eq_of_mem hmap hc] at hcode
  exact Prod.ext hx hcode.symm

theorem CodeTable.symbolOf_code : ct.symbolOf c = some x := by
  cases hfind : ct.find? (fun e => e.2 == c) with
  | none => simpa using List.find?_eq_none.mp hfind _ hc
  | some e =>
    have hcode : e.2 = c := by simpa using List.find?_some hfind
    have heq := eq_of_prefix_code hmap hpre hc (List.mem_of_find?_eq_some hfind) (hcode ▸ List.prefix_rfl)
    rw [symbolOf, hfind, heq, Option.map_some]

/-- The proper beginning of a code is no code. -/
theorem CodeTable.symbolOf_proper_prefix {acc : BitString} (h : acc <+: c) (hne : acc ≠ c) : ct.symbolOf acc = none :=
  symbolOf_eq_none fun e he hacc => hne (by rw [← hacc, eq_of_prefix_code hmap hpre hc he (hacc ▸ h)])

/-! ### The loop over one code -/

/-- Inside a code the loop only grows its accumulator. -/
theorem decodeLoop_inside_code (acc part : BitString) (out : List Symbol) (rest : BitString) (h : acc ++ part <+: c)
    (hne : acc ++ part ≠ c) : decodeLoop ct acc out (part ++ rest) = decodeLoop ct (acc ++ part) out rest := by
  induction part generalizing acc with
  | nil => rw [List.nil_append, List.append_nil]
  | cons b part ih =>
    rw [List.append_cons] at h hne ⊢
    have hacc : acc ++ [b] <+: c := (List.prefix_append _ part).trans h
    have hproper : acc ++ [b] ≠ c := by
      rintro rfl
      exact hne (h.eq_of_length_le (by simp))
    rw [List.cons_append, decodeLoop, CodeTable.symbolOf_proper_prefix hmap hpre hc hacc hproper]
    exact ih (acc ++ [b]) h hne

/-- A whole code emits its symbol. -/
theorem decodeLoop_code (hc0 : c ≠ []) (out : List Symbol) (rest : BitString) :
    decodeLoop ct [] out (c ++ rest) = decodeLoop ct [] (out ++ [x]) rest := by
  have hsplit : c.dropLast ++ [c.getLast hc0] = c := List.dropLast_append_getLast hc0
  have hproper : c.dropLast ≠ c := fun h => by simpa [h] using congrArg List.length hsplit
  calc decodeLoop ct [] out (c ++ rest)
      = decodeLoop ct [] out (c.dropLast ++ (c.getLast hc0 :: rest)) := by rw [List.append_cons, hsplit]
    _ = decodeLoop ct c.dropLast out (c.getLast hc0 :: rest) :=
        decodeLoop_inside_code hmap hpre hc [] _ out _ c.dropLast_prefix hproper
    _ = decodeLoop ct [] (out ++ [x]) rest := by
        rw [decodeLoop, hsplit, CodeTable.symbolOf_code hmap hpre hc]

end

theorem codesDistinct_of_prefixFree {ct : CodeTable} (hmap : ct.isMap) (hpre : ct.prefixFree) :
    ct.codesDistinct = true := by
  have hsymbol : ∀ a ∈ ct, ∀ b ∈ ct, a.2 = b.2 → a = b := fun a ha b hb h =>
    CodeTable.eq_of_prefix_code hmap hpre hb ha (h ▸ List.prefix_rfl)
  exact decide_eq_true ((List.nodup_map_iff_inj_on (List.Nodup.of_map _ hmap)).mpr hsymbol)

/-! ### The loop over an encoded input -/

section
variable {ct : CodeTable} (hmap : ct.isMap) (hne : ct.codesNonEmpty) (hpre : ct.prefixFree)
include hmap hne hpre

/-- The bits of encoded symbols decode to the symbols, and what follows them is decoded after them. -/
theorem decodeLoop_encoded {xs : List Symbol} (hxs : ∀ x ∈ xs, (ct.lookup x).isSome = true) (out : List Symbol)
    (rest : BitString) : decodeLoop ct [] out (xs.flatMap ct.codeOf ++ rest) = decodeLoop ct [] (out ++ xs) rest := by
  induction xs generalizing out with
  | nil => simp
  | cons x xs ih =>
    obtain ⟨hx, hxs⟩ := List.forall_mem_cons.mp hxs
    have hmem := CodeTable.codeOf_mem hx
    rw [List.flatMap_cons, List.append_assoc, decodeLoop_code hmap hpre hmem (hne _ hmem), ih hxs, ← List.append_cons]

theorem decode_encoded_append {xs : List Symbol} (hxs : ∀ x ∈ xs, (ct.lookup x).isSome = true) (rest : BitString) :
    decode (xs.flatMap ct.codeOf ++ rest) ct = decodeLoop ct [] xs rest := by
  rw [decode, if_pos (codesDistinct_of_prefixFree hmap hpre), decodeLoop_encoded hmap hne hpre hxs, List.nil_append]

/-- The decoder gives an encoded input back (R343). -/
theorem decode_encoded {xs : List Symbol} (hxs : ∀ x ∈ xs, (ct.lookup x).isSome = true) :
    decode (xs.flatMap ct.codeOf) ct = .ok xs := by
  have h := decode_encoded_append hmap hne hpre hxs []
  rwa [List.append_nil, decodeLoop, if_pos rfl] at h

end

/-- Encoding succeeds only on symbols of the table (R273). -/
theorem isSome_of_encode_eq_ok {ct : CodeTable} {xs : List Symbol} {bits : BitString} (h : encode ct xs = .ok bits) :
    ∀ x ∈ xs, (ct.lookup x).isSome = true := by
  induction xs generalizing bits with
  | nil => simp
  | cons x xs ih =>
    cases hx : ct.lookup x with
    | none => simp [encode, hx] at h
    | some c =>
      cases hxs : encode ct xs with
      | error e => simp [encode, hx, hxs] at h
      | ok bits' => exact List.forall_mem_cons.mpr ⟨by rw [hx, Option.isSome_some], ih hxs⟩

/-! ### R341, R343 -/

/-- Settles O49: by induction on the input, each code emits its symbol. -/
theorem decodeOfEncodeIsTheInput : Obligations.DecodeOfEncodeIsTheInput :=
  fun _ _ hmap hne hpre hxs => ⟨_, encode_eq_flatMap hxs, decode_encoded hmap hne hpre hxs⟩

/-- Settles O50: after the encoded symbols the bits end inside a code, so the accumulator is not empty. -/
theorem incompleteCodeIsTruncated : Obligations.IncompleteCodeIsTruncated := by
  intro ct xs bits part y c hmap hne hpre henc hc hprefix hproper hpart
  have hxs := isSome_of_encode_eq_ok henc
  obtain rfl : xs.flatMap ct.codeOf = bits := Except.ok.inj ((encode_eq_flatMap hxs).symm.trans henc)
  have hinside := decodeLoop_inside_code hmap hpre hc [] part xs [] hprefix hproper
  rw [List.append_nil, List.nil_append] at hinside
  rw [decode_encoded_append hmap hne hpre hxs, hinside, decodeLoop, if_neg hpart]

end Sys2Proof.Ref
end

section
/-! SUPPORT. Loading a whole table (R112, R216): the entries of a `tbl.loadall` in the order of the symbols, each
written once. -/

namespace Sys2Proof.Asm

/-! ### The entries of a load, sorted -/

theorem mem_sortedEntries {ct : Ref.CodeTable} {x : Symbol} {c : BitString} :
    (x, c) ∈ sortedEntries ct ↔ ct.lookup x = some c := by
  simp [sortedEntries, Ref.mem_allSymbols]

theorem sortedEntries_isMap (ct : Ref.CodeTable) : Ref.CodeTable.isMap (sortedEntries ct) := by
  rw [Ref.CodeTable.isMap, Ref.CodeTable.domain, sortedEntries, List.map_filterMap]
  refine Ref.allSymbols_nodup.filterMap fun x x' y hx hx' => ?_
  simp only [Option.map_map, Option.mem_def, Option.map_eq_some_iff, Function.comp_apply] at hx hx'
  obtain ⟨_, -, rfl⟩ := hx
  obtain ⟨_, -, rfl⟩ := hx'
  rfl

theorem not_mem_sortedEntries_domain {ct : Ref.CodeTable} {x : Symbol} (h : ct.lookup x = none) :
    x ∉ Ref.CodeTable.domain (sortedEntries ct) := by
  intro hx
  obtain ⟨e, he, rfl⟩ := List.mem_map.mp hx
  simp [mem_sortedEntries.mp he] at h

end Sys2Proof.Asm

namespace Sys2Proof.Machine

/-! ### Words in two parts -/

theorem runWords_append {ws : List Word} {s t : State} (h : runWords ws s = .next t) (vs : List Word) :
    runWords (ws ++ vs) s = runWords vs t := by
  induction ws generalizing s with
  | nil =>
    obtain rfl : s = t := by simpa [runWords] using h
    rfl
  | cons w ws ih =>
    rw [runWords_cons] at h
    rw [List.cons_append, runWords_cons, ih h]

theorem runWords_wordsOf_append {is : List Instr} {s t : State} (h : runWords (wordsOf is) s = .next t)
    (js : List Instr) : runWords (wordsOf (is ++ js)) s = runWords (wordsOf js) t := by
  rw [wordsOf, List.map_append]
  exact runWords_append h _

/-! ### Entries written one after the other -/

/-- `s` with the codes `es` loaded in order. -/
def State.withEntries (s : State) (es : Ref.CodeTable) : State :=
  es.foldl (fun s e => s.setEntry e.1 (Entry.ofCode e.2)) s

theorem withEntries_cons (s : State) (e : Symbol × BitString) (es : Ref.CodeTable) :
    s.withEntries (e :: es) = (s.setEntry e.1 (Entry.ofCode e.2)).withEntries es := rfl

theorem sameExceptTable_withEntries (s : State) (es : Ref.CodeTable) : sameExceptTable s (s.withEntries es) := by
  induction es generalizing s with
  | nil => rfl
  | cons e es ih => exact sameExceptTable_trans (sameExceptTable_setEntry s e.1 _) (ih _)

theorem entry_withEntries_of_not_mem {s : State} {es : Ref.CodeTable} {x : Symbol} (hx : x ∉ es.domain) :
    (s.withEntries es).entry x = s.entry x := by
  induction es generalizing s with
  | nil => rfl
  | cons e es ih =>
    obtain ⟨hne, hx⟩ := not_or.mp (mt List.mem_cons.mpr hx)
    rw [withEntries_cons, ih hx, entry_setEntry_other _ _ hne]

theorem entry_withEntries_of_mem {s : State} {es : Ref.CodeTable} (hmap : es.isMap) {x : Symbol} {c : BitString}
    (hx : (x, c) ∈ es) : (s.withEntries es).entry x = Entry.ofCode c := by
  induction es generalizing s with
  | nil => cases hx
  | cons e es ih =>
    obtain ⟨hnew, hmap⟩ := List.nodup_cons.mp hmap
    obtain rfl | hx := List.mem_cons.mp hx
    · rw [withEntries_cons, entry_withEntries_of_not_mem hnew, entry_setEntry_same]
    · exact ih hmap hx

theorem runWords_loadEntries (es : Ref.CodeTable) {s : State} (hm : s.mode = .idle) :
    runWords (wordsOf (es.flatMap (fun e => Asm.loadEntry e.1 e.2))) s = .next (s.withEntries es) := by
  induction es generalizing s with
  | nil => rfl
  | cons e es ih =>
    rw [List.flatMap_cons, runWords_wordsOf_append (runWords_loadEntry e.1 e.2 hm), ih (by rw [setEntry_mode, hm]),
      withEntries_cons]

/-! ### R216 -/

/-- `s` after the words of `tbl.loadall ct`. -/
def State.afterLoad (s : State) (ct : Ref.CodeTable) : State := s.clearLens.withEntries (Asm.sortedEntries ct)

theorem runWords_loadTable (ct : Ref.CodeTable) {s : State} (hm : s.mode = .idle) :
    runWords (wordsOf (Asm.loadTable ct)) s = .next (s.afterLoad ct) := by
  rw [Asm.loadTable, runWords_wordsOf_cons, resultOf_tblClear_of_idle hm,
    runWords_loadEntries _ (by rw [clearLens_mode, hm]), State.afterLoad]

theorem sameExceptTable_afterLoad (s : State) (ct : Ref.CodeTable) : sameExceptTable s (s.afterLoad ct) :=
  sameExceptTable_trans (sameExceptTable_clearLens s) (sameExceptTable_withEntries _ _)

/-- A symbol of the map is written once, with its code; any other entry is left as TBL_CLEAR left it. -/
theorem afterLoad_holdsTable (s : State) {ct : Ref.CodeTable} (hct : loadable ct) : (s.afterLoad ct).holdsTable ct := by
  obtain ⟨-, hlen⟩ := hct
  intro x
  cases hx : ct.lookup x with
  | some c =>
    obtain ⟨-, hmax⟩ := hlen _ (Ref.mem_of_lookup_eq_some hx)
    show ((s.afterLoad ct).entry x).len.toNat = c.length ∧ ((s.afterLoad ct).entry x).code = c
    rw [State.afterLoad, entry_withEntries_of_mem (Asm.sortedEntries_isMap ct) (Asm.mem_sortedEntries.mpr hx)]
    exact ofCode_spec hmax
  | none =>
    show ((s.afterLoad ct).entry x).len = 0#8
    rw [State.afterLoad, entry_withEntries_of_not_mem (Asm.not_mem_sortedEntries_domain hx), entry_clearLens]

/-- Settles O45: TBL_CLEAR invalidates every entry, and the load writes each entry of the map once. -/
theorem loadTableGivesTheTable : Obligations.LoadTableGivesTheTable :=
  fun ct s hct hm =>
    ⟨s.afterLoad ct, runWords_loadTable ct hm, sameExceptTable_afterLoad s ct, afterLoad_holdsTable s hct⟩

end Sys2Proof.Machine
end

section
/-! SUPPORT. The tree traversal (R344) and the accumulator decoder (R340) in step: the node the traversal stands at is
the subtree at the path the accumulator holds. And the leaves of a built tree (R203). -/

namespace Sys2Proof.Ref

/-! ### Subtrees by path -/

/-- The subtree that a path leads to, a bit 1 to the right (R209). -/
def Node.subtree : Node → BitString → Option Node
  | n, [] => some n
  | .leaf _, _ :: _ => none
  | .internal l r, b :: bs => (if b then r else l).subtree bs

/-- The symbol of the leaf that a path leads to. -/
def Node.leafAt (n : Node) (path : BitString) : Option Symbol :=
  match n.subtree path with
  | some (.leaf x) => some x
  | _ => none

theorem subtree_append (n : Node) (p q : BitString) : n.subtree (p ++ q) = (n.subtree p).bind (·.subtree q) := by
  induction p generalizing n with
  | nil => simp [Node.subtree]
  | cons b p ih =>
    cases n with
    | leaf x => simp [Node.subtree]
    | internal l r => exact ih (if b then r else l)

/-- A subtree along a path of one bit or more is smaller than its tree. -/
theorem leaves_length_lt_of_subtree {t n : Node} {b : Bool} {p : BitString} (h : t.subtree (b :: p) = some n) :
    n.leaves.length < t.leaves.length := by
  induction p generalizing t b with
  | nil =>
    cases t with
    | leaf x => simp [Node.subtree] at h
    | internal l r =>
      have hl := leaves_length_pos l
      have hr := leaves_length_pos r
      obtain rfl : (if b then r else l) = n := by simpa [Node.subtree] using h
      cases b <;> simpa [Node.leaves]
  | cons b' p ih =>
    cases t with
    | leaf x => simp [Node.subtree] at h
    | internal l r =>
      have hlt := ih (t := if b then r else l) h
      have hle : (if b then r else l).leaves.length ≤ (Node.internal l r).leaves.length := by
        cases b <;> simp [Node.leaves]
      omega

/-- A path leads back to the whole tree only if it is empty. -/
theorem subtree_eq_self_iff {t n : Node} {p : BitString} (h : t.subtree p = some n) : n = t ↔ p = [] := by
  cases p with
  | nil => simpa [Node.subtree, eq_comm] using h
  | cons b p =>
    have hlt := leaves_length_lt_of_subtree h
    simp only [reduceCtorEq, iff_false]
    rintro rfl
    omega

/-! ### The inverse of a walk -/

/-- A walk along another branch has no code that continues the path. -/
theorem symbolOf_walk_other (n : Node) {p q : BitString} (h : ¬ p <+: q) : (walk n p).symbolOf q = none :=
  CodeTable.symbolOf_eq_none fun _ he hq => h (hq ▸ prefix_of_mem_walk he)

theorem CodeTable.symbolOf_append (a b : CodeTable) (acc : BitString) :
    CodeTable.symbolOf (a ++ b) acc = (a.symbolOf acc).or (b.symbolOf acc) := by
  rw [CodeTable.symbolOf, List.find?_append, Option.map_or]
  rfl

/-- The inverse of a walk follows the path to a leaf. -/
theorem symbolOf_walk (n : Node) (p q : BitString) : (walk n p).symbolOf (p ++ q) = n.leafAt q := by
  induction n generalizing p q with
  | leaf x => cases q <;> simp [walk, CodeTable.symbolOf, Node.leafAt, Node.subtree]
  | internal l r ihl ihr =>
    rw [walk, CodeTable.symbolOf_append]
    match q with
    | [] =>
      have hshort : ∀ b : Bool, ¬ p ++ [b] <+: p ++ [] := fun b h => by simpa using h.length_le
      rw [symbolOf_walk_other l (hshort false), symbolOf_walk_other r (hshort true)]
      rfl
    | false :: q =>
      rw [List.append_cons p false q, ihl, symbolOf_walk_other r (by simp), Option.or_none]
      rfl
    | true :: q =>
      rw [List.append_cons p true q, ihr, symbolOf_walk_other l (by simp), Option.none_or]
      rfl

theorem symbolOf_assignCodes (l r : Node) (path : BitString) :
    (assignCodes (.internal l r)).symbolOf path = (Node.internal l r).leafAt path :=
  symbolOf_walk (.internal l r) [] path

/-! ### The two decoders in step -/

/-- At the subtree where the accumulator's path leads, the traversal goes on as the decoder does. -/
theorem traverseLoop_eq_decodeLoop (tl tr : Node) {l r : Node} {path : BitString}
    (h : (Node.internal tl tr).subtree path = some (.internal l r)) (out : List Symbol) (bits : BitString) :
    traverseLoop (.internal tl tr) (.internal l r) out bits =
      decodeLoop (assignCodes (.internal tl tr)) path out bits := by
  induction bits generalizing l r path out with
  | nil => simp only [traverseLoop, decodeLoop, subtree_eq_self_iff h]
  | cons b bits ih =>
    have hchild : (Node.internal tl tr).subtree (path ++ [b]) = some (if b then r else l) := by
      rw [subtree_append, h]
      rfl
    have hleaf : (Node.internal tl tr).leafAt (path ++ [b]) =
        match (if b then r else l) with | .leaf x => some x | .internal _ _ => none := by
      rw [Node.leafAt, hchild]
      cases (if b then r else l) <;> rfl
    rw [traverseLoop, decodeLoop, symbolOf_assignCodes, hleaf]
    cases hn : (if b then r else l) with
    | leaf x => exact ih rfl (out ++ [x])
    | internal l' r' => exact ih (hchild.trans (congrArg some hn)) out

/-- Settles O57: both loops start at the root, with an empty path. -/
theorem traversalEqualsDecode : Obligations.TraversalEqualsDecode := by
  intro l r bits
  rw [decodeTree, decode, if_pos (assignCodes_codesDistinct _)]
  exact traverseLoop_eq_decodeLoop l r rfl [] bits

/-! ### R203, R204 -/

/-- Settles O53: merging keeps the leaves, which are the table's symbols at the start. -/
theorem buildTreeHasTheSymbolsAsLeaves : Obligations.BuildTreeHasTheSymbolsAsLeaves := by
  refine fun F => ⟨?_, fun hF => ?_⟩
  · rintro rfl
    simp [buildTree, mergeLoop]
  · obtain ⟨t, hbuild, hmerges⟩ := buildTree_merges hF
    exact ⟨t, hbuild, hmerges.leaves_perm_domain⟩

end Sys2Proof.Ref
end

section
/-! SUPPORT. The host's sequence (R452) run to its end: a run that offers every word and hands over every item, and what
the words of the sequence do, one phase after the other (FLUSH, table, CLR_STATUS, stream). -/

namespace Sys2Proof.Machine

/-! ### A run to the end of the host's list -/

/-- A script without reset has none in any number of cycles, since none follows the script. -/
theorem noReset_of_script {s : State} (h : ∀ e ∈ s.env, e.rst = false) (n : Nat) : s.noReset n := by
  intro i _
  rw [State.envAt]
  by_cases hi : i < s.env.length
  · rw [List.getD_eq_getElem _ _ hi]
    exact h _ (List.getElem_mem hi)
  · rw [List.getD_eq_default _ _ (Nat.le_of_not_lt hi)]
    rfl

/-- What a step takes from the host's list is the word that transfers. -/
theorem step_cmds_append {s t : State} (h : step s = .next t) : s.wordTransferring.toList ++ t.cmds = s.cmds := by
  rw [step_cmds h, advance_cmds, State.wordTransferring]
  by_cases hc : cmdTransfers s.pins s = true
  · rw [if_pos hc, if_pos hc]
    exact (cmds_of_cmdTransfers hc).symm
  · rw [if_neg hc, if_neg hc]
    rfl

/-- What is left to do: cycles of the script, then words of the host, then items of the queue. -/
def State.pending (s : State) : ℕ ×ₗ ℕ ×ₗ ℕ := toLex (s.env.length, toLex (s.cmds.length, s.ser.length))

/-- After the script, every step takes an item of the queue or, with none, a word of the host. -/
theorem step_pending_lt_of_env_nil {s t : State} (h : step s = .next t) (henv : s.env = [])
    (hne : s.cmds ≠ [] ∨ s.ser ≠ []) : t.pending < s.pending := by
  have hnow : s.envNow = EnvCycle.default := by rw [State.envNow, henv, List.headD_nil]
  have hr : s.pins.rst = false := congrArg EnvCycle.rst hnow
  have htenv : t.env.length = s.env.length := by rw [step_env h, henv, List.tail_nil]
  refine Prod.Lex.toLex_lt_toLex.mpr (.inr ⟨htenv, Prod.Lex.toLex_lt_toLex.mpr ?_⟩)
  by_cases hser : s.ser = []
  · have hcmds := hne.resolve_right (not_not.mpr hser)
    have hc : cmdTransfers s.pins s = true := by
      simp [cmdTransfers_iff, State.pins, hnow, EnvCycle.default, hser, hcmds]
    have hlen := List.length_pos_iff.mpr hcmds
    left
    rw [step_cmds h, advance_cmds, if_pos hc, List.length_tail]
    omega
  · have hready : s.pins.outReady = true := congrArg EnvCycle.outReady hnow
    have hlen := List.length_pos_iff.mpr hser
    obtain rfl : serializerStep s.advance = t := by simpa [step_of_busy hser hr, hready] using h
    right
    rw [serializerStep_cmds, serializerStep_ser, advance_ser, advance_of_busy hser, List.length_tail]
    exact ⟨rfl, by omega⟩

theorem step_pending_lt {s t : State} (h : step s = .next t) (hne : s.cmds ≠ [] ∨ s.ser ≠ []) :
    t.pending < s.pending := by
  by_cases henv : s.env = []
  · exact step_pending_lt_of_env_nil h henv hne
  · have hlen := List.length_pos_iff.mpr henv
    refine Prod.Lex.toLex_lt_toLex.mpr (.inl ?_)
    rw [step_env h, List.length_tail]
    omega

/-- Without reset some run transfers every word of the host's list and hands over every item (R457). -/
theorem exists_run_to_end (s : State) :
    ∃ n t, runSteps n s = .next t ∧ wordsTransferred n s = s.cmds ∧ t.cmds = [] ∧ t.ser = [] := by
  induction hp : s.pending using WellFoundedLT.induction generalizing s with
  | ind p ih =>
    subst hp
    by_cases hdone : s.cmds = [] ∧ s.ser = []
    · exact ⟨0, s, runSteps_zero s, hdone.1.symm, hdone⟩
    · obtain ⟨s', hs⟩ := everyStepAnswersNext s
      obtain ⟨n, t, hrun, hwords, hend⟩ := ih s'.pending (step_pending_lt hs (not_and_or.mp hdone)) s' rfl
      refine ⟨n + 1, t, by rw [runSteps_succ n hs, hrun], ?_, hend⟩
      rw [wordsTransferred_succ n hs, hwords, step_cmds_append hs]

/-! ### The phases of the sequence -/

/-- The end marker of the first FLUSH, if there is one. -/
def firstMark (s : State) (flushFirst : Bool) : List Item := if flushFirst then [.endMark (s.mode == .error)] else []

/-- Step 2 of the sequence leaves the block in mode IDLE. -/
theorem runWords_flushFirst {s : State} {flushFirst : Bool} (hm : flushFirst = true ∨ s.mode = .idle) :
    ∃ t, runWords (wordsOf (if flushFirst then [.flush] else [])) s = .next t ∧ t.mode = .idle ∧
      t.items = s.items ++ firstMark s flushFirst := by
  cases flushFirst with
  | true =>
    refine ⟨_, runWords_wordsOf_cons .flush [] s, rfl, ?_⟩
    exact (List.append_assoc ..).symm
  | false => exact ⟨s, rfl, hm.resolve_left Bool.false_ne_true, (List.append_nil _).symm⟩

/-- Step 4 of the sequence leaves the mode, the table and the items. -/
theorem runWords_clear (s : State) (clear : Bool) :
    ∃ t, runWords (wordsOf (if clear then [.clrStatus] else [])) s = .next t ∧ t.mode = s.mode ∧ t.table = s.table ∧
      t.items = s.items := by
  cases clear with
  | true => exact ⟨clearStatus s, runWords_wordsOf_cons .clrStatus [] s, rfl, rfl, rfl⟩
  | false => exact ⟨s, rfl, rfl, rfl, rfl⟩

/-- The words of the sequence: the first FLUSH's mark, and the stream of the input's bits, which ends `E0`. -/
theorem runWords_hostSequence {xs : List Symbol} {ct : Ref.CodeTable} (hct : Ref.codeTableOf xs = .ok ct)
    (hload : loadable ct) (hne : ct.codesNonEmpty) (hxs : ∀ x ∈ xs, (ct.lookup x).isSome = true) {s : State}
    {flushFirst : Bool} (hm : flushFirst = true ∨ s.mode = .idle) (clear : Bool) :
    ∃ u, runWords (wordsOf (Asm.hostSequence xs flushFirst clear)) s = .next u ∧ u.mode = .idle ∧
      u.items = s.items ++ firstMark s flushFirst ++ (xs.flatMap ct.codeOf).map .bit ++ [.endMark false] := by
  obtain ⟨s₁, hrun₁, hmode₁, hitems₁⟩ := runWords_flushFirst hm
  have hrun₂ := runWords_loadTable ct hmode₁
  have hframe₂ := sameExceptTable_afterLoad s₁ ct
  have hmode₂ : (s₁.afterLoad ct).mode = s₁.mode := eq_of_sameExceptTable hframe₂ State.mode fun _ => rfl
  have hitems₂ : (s₁.afterLoad ct).items = s₁.items := eq_of_sameExceptTable hframe₂ State.items fun _ => rfl
  obtain ⟨s₃, hrun₃, hmode₃, htable₃, hitems₃⟩ := runWords_clear (s₁.afterLoad ct) clear
  have hmode : s₃.mode ≠ .error := by simp [hmode₃, hmode₂, hmode₁]
  have hrun₄ := runWords_encodeStream hne (holdsTable_congr (afterLoad_holdsTable s₁ hload) htable₃) hmode hxs
  refine ⟨s₃.afterStream ct xs, ?_, rfl, ?_⟩
  · rw [Asm.hostSequence, hct, runWords_wordsOf_append hrun₁]
    show runWords (wordsOf (Asm.loadTable ct ++ _ ++ Asm.encodeStream xs)) s₁ = _
    rw [List.append_assoc, runWords_wordsOf_append hrun₂, runWords_wordsOf_append hrun₃, hrun₄]
  · rw [afterStream_items, hitems₃, hitems₂, hitems₁]

/-! ### R343, R452 -/

/-- A table built from an input can be loaded: its codes have 1 to 255 bits (R214). -/
theorem loadable_of_codeTableOf {xs : List Symbol} {ct : Ref.CodeTable} (hct : Ref.codeTableOf xs = .ok ct)
    (hmap : ct.isMap) (hne : ct.codesNonEmpty) : loadable ct :=
  ⟨hmap, fun e he => ⟨List.length_pos_iff.mpr (hne e he), (Ref.builtCodesAreShort xs ct hct e he).2⟩⟩

/-- Settles O51: a run transfers the whole sequence (`exists_run_to_end`) and has the effect of its words
(`runWords_hostSequence`), whose stream is the encoded input, and the built table decodes that (`Ref.decode_encoded`).
-/
theorem hostSequenceRoundTrips : Obligations.HostSequenceRoundTrips := by
  intro xs flushFirst clear s hnil hm hser henv hcmds
  obtain ⟨ct, hct, hmap, hdom, hne, -, hpre⟩ := Ref.builtTablesArePrefixFree xs hnil
  have hxs : ∀ x ∈ xs, (ct.lookup x).isSome = true := fun x hx => by
    obtain ⟨e, he, rfl⟩ := List.mem_map.mp ((hdom x).mpr hx)
    rw [Ref.lookup_eq_some_of_mem hmap he, Option.isSome_some]
  obtain ⟨u, hu, humode, huitems⟩ :=
    runWords_hostSequence hct (loadable_of_codeTableOf hct hmap hne) hne hxs hm clear
  obtain ⟨n, t, hrun, hwords, htcmds, htser⟩ := exists_run_to_end s
  have heff : SameEffect u t := sameEffect_of_run (noReset_of_script henv n) hrun (by rw [hwords, hcmds, hu])
  refine ⟨n, t, ct, xs.flatMap ct.codeOf, hrun, htcmds, htser, heff.mode.trans humode, hct, ?_,
    congrArg some (Ref.decode_encoded hmap hne hpre hxs)⟩
  have hout := heff.items.trans huitems
  rwa [State.items, htser, List.append_nil, State.items, hser, List.append_nil] at hout

end Sys2Proof.Machine
end
